-- ==== Sys2Proof/Word.lean ====
section
/-! DEFINITION. The bit-vector types of the AON effect processor (spec/30_encoding.md R140, spec/20_memory.md R100). -/

namespace Sys2Proof

/-- One byte: a container byte, an effect argument, a waveform byte (20_memory.md R100). -/
abbrev Byte := BitVec 8

/-- One pattern cell: the 32-bit instruction word (30_encoding.md R140). -/
abbrev CellWord := BitVec 32

/-- An effect code, the cell's opcode (30_encoding.md R150). -/
abbrev Code := BitVec 6

/-- A nibble of an effect argument (00_scope.md R17). -/
abbrev Nibble := BitVec 4

/-- A channel number c (00_scope.md R2: at most 8 channels; the song's N_CH says how many there are). -/
abbrev Channel := Fin 8

end Sys2Proof
end

