-- ==== Sys2Proof/Config.lean ====
section
/-! DEFINITION. The implementation parameters of spec/00_scope.md R9 and R10, the effect code map of
spec/30_encoding.md R151 as data, the default configuration, and the free values (constants with no body). -/

namespace Sys2Proof

/-! Values the document fixes (00_scope.md R9). -/

/-- PERIOD_MIN, the period floor (00_scope.md R9). -/
abbrev periodMin : Nat := 103
/-- PERIOD_MAX, the ceiling of the 16-bit period register (00_scope.md R10). -/
abbrev periodMax : Nat := 65535
/-- VOL_MAX (00_scope.md R9). -/
abbrev volMax : Nat := 64
/-- SVOL_MAX (00_scope.md R9). -/
abbrev svolMax : Nat := 127
/-- NOTE_MAX (00_scope.md R9). -/
abbrev noteMax : Nat := 60
/-- ROWS per pattern (00_scope.md R9). -/
abbrev rowsPerPattern : Nat := 64
/-- LOOP_EXHAUSTED, the pattern-loop sentinel (00_scope.md R9). -/
abbrev loopExhausted : Byte := 0xF0#8

/-- EFFECT_CODE_MAP (30_encoding.md R151): the code of each effect and of each Extra sub-effect. A parameter of
the block ("a model must take the map as an argument", 91_not_in_source.md N4), so plain data (log entry 6). -/
structure EffectCodeMap where
  arp : Code
  slideUp : Code
  slideDown : Code
  tonePorta : Code
  vibrato : Code
  tonePortaVslide : Code
  vibratoVslide : Code
  sampleOffset : Code
  volumeSlide : Code
  positionJump : Code
  setVolume : Code
  patternBreak : Code
  extra : Code
  setSpeed : Code
  newVolume : Code
  waveSpeed : Code
  arpSpeed : Code
  fineSlideUp : Code
  fineSlideDown : Code
  trackVolume : Code
  waveMode : Code
  extEvent : Code
  /-- Extra sub-code of FILTER. -/
  filter : Nibble
  /-- Extra sub-code of VIB_WAVE. -/
  vibWave : Nibble
  /-- Extra sub-code of PATTERN_LOOP. -/
  patternLoop : Nibble
  /-- Extra sub-code of PATTERN_DELAY. -/
  patternDelay : Nibble
deriving DecidableEq, Repr

/-- The default map: the two tables of 30_encoding.md R151. -/
def EffectCodeMap.default : EffectCodeMap where
  arp := 0x00#6
  slideUp := 0x01#6
  slideDown := 0x02#6
  tonePorta := 0x03#6
  vibrato := 0x04#6
  tonePortaVslide := 0x05#6
  vibratoVslide := 0x06#6
  sampleOffset := 0x09#6
  volumeSlide := 0x0A#6
  positionJump := 0x0B#6
  setVolume := 0x0C#6
  patternBreak := 0x0D#6
  extra := 0x0E#6
  setSpeed := 0x0F#6
  newVolume := 0x10#6
  waveSpeed := 0x11#6
  arpSpeed := 0x12#6
  fineSlideUp := 0x13#6
  fineSlideDown := 0x14#6
  trackVolume := 0x15#6
  waveMode := 0x16#6
  extEvent := 0x17#6
  filter := 0x0#4
  vibWave := 0x4#4
  patternLoop := 0x6#4
  patternDelay := 0xE#4

/-- The effect codes the map assigns, in the order of 30_encoding.md R151. -/
def EffectCodeMap.codes (m : EffectCodeMap) : List Code :=
  [m.arp, m.slideUp, m.slideDown, m.tonePorta, m.vibrato, m.tonePortaVslide, m.vibratoVslide, m.sampleOffset,
   m.volumeSlide, m.positionJump, m.setVolume, m.patternBreak, m.extra, m.setSpeed, m.newVolume, m.waveSpeed,
   m.arpSpeed, m.fineSlideUp, m.fineSlideDown, m.trackVolume, m.waveMode, m.extEvent]

/-- The Extra sub-codes the map assigns (30_encoding.md R151, second table). -/
def EffectCodeMap.subcodes (m : EffectCodeMap) : List Nibble :=
  [m.filter, m.vibWave, m.patternLoop, m.patternDelay]

/-- VIB_TABLE[3][32] (45_arpeggio.md R445). -/
abbrev VibTable := Vector (Vector Byte 32) 3

/-- PERIOD_TABLE: 16 x 60 entries (45_arpeggio.md R431). -/
abbrev PeriodTable := Vector (Vector (BitVec 16) 60) 16

/-- VIB_TABLE[0], the sine table (45_arpeggio.md R445). -/
def sineTable : Vector Byte 32 :=
  #v[0, 24, 49, 74, 97, 120, 141, 161, 180, 197, 212, 224, 235, 244, 250, 253, 255, 253,
     250, 244, 235, 224, 212, 197, 180, 161, 141, 120, 97, 74, 49, 24]

/-- VIB_TABLE[1], the ramp-down table: 255 - 8i (45_arpeggio.md R445). -/
def rampTable : Vector Byte 32 :=
  #v[255, 247, 239, 231, 223, 215, 207, 199, 191, 183, 175, 167, 159, 151, 143, 135, 127, 119,
     111, 103, 95, 87, 79, 71, 63, 55, 47, 39, 31, 23, 15, 7]

/-- VIB_TABLE[2], the flat table: 255 in every entry (45_arpeggio.md R445). -/
def squareTable : Vector Byte 32 :=
  #v[255, 255, 255, 255, 255, 255, 255, 255, 255, 255, 255, 255, 255, 255, 255, 255,
     255, 255, 255, 255, 255, 255, 255, 255, 255, 255, 255, 255, 255, 255, 255, 255]

/-- The parameters of the block (00_scope.md R10, 10_state.md R85): fixed for its life, written by no rule. -/
structure Config where
  /-- EFFECT_CODE_MAP (R151). -/
  codes : EffectCodeMap
  /-- PERIOD_TABLE (R431). -/
  periodTable : PeriodTable
  /-- PAL_CLOCK in Hz (R520). -/
  palClock : Nat
  /-- SVOL_SHIFT_4 (R545). -/
  svolShift4 : Nat
  /-- SVOL_SHIFT_8 (R545). -/
  svolShift8 : Nat
  /-- ARP_END_NIBBLE (R434). -/
  arpEnd : Nibble
  /-- LOOP_VALID_MIN_WORDS (R534). -/
  loopValidMinWords : Nat
  /-- ADSR_ON_SAMPLES (R261, R460, 90_conflicts.md C1). -/
  adsrOnSamples : Bool
  /-- SCOPE_LEN (R71, R556). -/
  scopeLen : Nat
  /-- VIB_TABLE (R445). -/
  vibTable : VibTable
deriving DecidableEq, Repr

/-- FREE VALUE (log entry 5): the entries of PERIOD_TABLE of the machine right after reset. The spec gives none ("A model must
not assume any entry", 45_arpeggio.md R431), so this constant has no body. -/
opaque openPeriodEntries : PeriodTable

/-- PERIOD_TABLE of the machine right after reset: the free entries, each "an integer in [1, 65535]" (45_arpeggio.md R431). -/
def openPeriodTable : PeriodTable :=
  openPeriodEntries.map (fun row => row.map (fun p => if p = 0 then 1 else p))

/-- FREE VALUE (log entry 8): what the 8-bit wavetable cursor Y.widx holds after 46_synth_engine.md R480 computes a
cursor above 255, as a function of the number computed. The spec gives the register 8 bits and no rule for the sum. -/
opaque cursorOverflow : Nat → Byte

/-- FREE VALUE (log entry 9): what READ returns at an offset that 10_state.md R80 gives no register. -/
opaque unmappedRead : Nat → BitVec 32

/-- The default parameters of 00_scope.md R10; PERIOD_TABLE, which has no default, is free. -/
def Config.default : Config where
  codes := EffectCodeMap.default
  periodTable := openPeriodTable
  palClock := 3546895
  svolShift4 := 1
  svolShift8 := 0
  arpEnd := 0xF#4
  loopValidMinWords := 2
  adsrOnSamples := false
  scopeLen := 1024
  vibTable := #v[sineTable, rampTable, squareTable]

end Sys2Proof
end

