-- ==== Sys2Proof/Syntax.lean ====
section
/-! DEFINITION. The instructions: one constructor per row of spec/opcode_table.json. An instruction is one pattern
cell (spec/00_scope.md R4, spec/30_encoding.md R140). -/

namespace Sys2Proof

/-- The part every cell has whatever its effect (30_encoding.md R140): arpeggio index, note, instrument.
The pad bits w[15:14] are ignored (R162) and are no operand. -/
structure Head where
  /-- Arpeggio-table index, arp_hi:arp_lo (R141). -/
  arpidx : Nibble
  /-- 0 = no note, 1..60 = pitch, 61..63 see R145 (R143). -/
  note : BitVec 6
  /-- 0 = reuse the previous instrument, else 1-based (R144). -/
  inst : BitVec 6
deriving DecidableEq, Repr

/-- One constructor per row of spec/opcode_table.json; operand forms are those of 30_encoding.md R146. -/
inductive Instr where
  /-- ARP (45_arpeggio.md R433): semitone offsets x, y, or the table form when both are 0. -/
  | arp (h : Head) (x y : Nibble)
  /-- SLIDE_UP (42_tick_gated_effects.md R310). -/
  | slideUp (h : Head) (arg : Byte)
  /-- SLIDE_DOWN (R312). -/
  | slideDown (h : Head) (arg : Byte)
  /-- TONE_PORTA (R315). -/
  | tonePorta (h : Head) (arg : Byte)
  /-- VIBRATO (R320): x speed, y depth. -/
  | vibrato (h : Head) (x y : Nibble)
  /-- TONE_PORTA_VSLIDE (R325): x up, y down. -/
  | tonePortaVslide (h : Head) (x y : Nibble)
  /-- VIBRATO_VSLIDE (R327): x up, y down. -/
  | vibratoVslide (h : Head) (x y : Nibble)
  /-- SAMPLE_OFFSET (41_row_load.md R270). -/
  | sampleOffset (h : Head) (arg : Byte)
  /-- VOLUME_SLIDE (R330): x up, y down. -/
  | volumeSlide (h : Head) (x y : Nibble)
  /-- POSITION_JUMP (43_every_tick_effects.md R352). -/
  | positionJump (h : Head) (arg : Byte)
  /-- SET_VOLUME (R354). -/
  | setVolume (h : Head) (arg : Byte)
  /-- PATTERN_BREAK (R356). -/
  | patternBreak (h : Head) (arg : Byte)
  /-- EXTRA (44_extra_effects.md R400): the cells whose sub-code x is reserved (30_encoding.md R161). -/
  | extra (h : Head) (x y : Nibble)
  /-- SET_SPEED (R358). -/
  | setSpeed (h : Head) (arg : Byte)
  /-- NEW_VOLUME (R364). -/
  | newVolume (h : Head) (arg : Byte)
  /-- WAVE_SPEED (R366). -/
  | waveSpeed (h : Head) (arg : Byte)
  /-- ARP_SPEED (R368). -/
  | arpSpeed (h : Head) (arg : Byte)
  /-- FINE_SLIDE_UP (R370). -/
  | fineSlideUp (h : Head) (arg : Byte)
  /-- FINE_SLIDE_DOWN (R372). -/
  | fineSlideDown (h : Head) (arg : Byte)
  /-- TRACK_VOLUME (R374). -/
  | trackVolume (h : Head) (arg : Byte)
  /-- WAVE_MODE (R376). -/
  | waveMode (h : Head) (arg : Byte)
  /-- EXT_EVENT (R378). -/
  | extEvent (h : Head) (arg : Byte)
  /-- FILTER, E0y (44_extra_effects.md R402). -/
  | filter (h : Head) (y : Nibble)
  /-- VIB_WAVE, E4y (R404). -/
  | vibWave (h : Head) (y : Nibble)
  /-- PATTERN_LOOP, E6y (R406). -/
  | patternLoop (h : Head) (y : Nibble)
  /-- PATTERN_DELAY, EEy (R410). -/
  | patternDelay (h : Head) (y : Nibble)
deriving DecidableEq, Repr

end Sys2Proof
end

