-- ==== Sys2Proof/WellFormed.lean ====
section
/-! DEFINITION. Which instructions and which parameters are well-formed (spec/30_encoding.md R151, R152, R161;
spec/00_scope.md R10). The operands' widths are in their types, so only the EXTRA row has a check of its own. -/

namespace Sys2Proof

/-- fx is assigned no effect (30_encoding.md R160). -/
def EffectCodeMap.isReserved (m : EffectCodeMap) (fx : Code) : Bool :=
  !(m.codes.contains fx)

/-- x is assigned no Extra sub-effect (30_encoding.md R161). -/
def EffectCodeMap.isReservedSub (m : EffectCodeMap) (x : Nibble) : Bool :=
  !(m.subcodes.contains x)

/-- No two effects share a code and no two sub-effects share a sub-code: every code selects one row of R151. -/
def EffectCodeMap.wf (m : EffectCodeMap) : Bool :=
  decide m.codes.Nodup && decide m.subcodes.Nodup

/-- The parameters at which the statements about legal states speak: one code per effect (log entry 6), period-table entries in
[1, 65535] (00_scope.md R10, 45_arpeggio.md R431), a scope ring that has an entry. R10 gives PAL_CLOCK and LOOP_VALID_MIN_WORDS
their values and no range: that each is at least 1 is the model's DESIGN CHOICE, and that SCOPE_LEN is at least 1 is DEDUCED
(log entry 21). -/
def Config.wf (cfg : Config) : Bool :=
  cfg.codes.wf && decide (1 ≤ cfg.scopeLen) && decide (1 ≤ cfg.palClock) && decide (1 ≤ cfg.loopValidMinWords) &&
    cfg.periodTable.toList.all (fun row => row.toList.all (fun p => decide (1 ≤ p.toNat)))

/-- Well-formed instructions under a code map: an `extra` cell has a reserved sub-code, because a CELL_EXTRA row
takes precedence over the EXTRA row (30_encoding.md R152). -/
def Instr.wf (m : EffectCodeMap) : Instr → Bool
  | .arp _ _ _ => true
  | .slideUp _ _ => true
  | .slideDown _ _ => true
  | .tonePorta _ _ => true
  | .vibrato _ _ _ => true
  | .tonePortaVslide _ _ _ => true
  | .vibratoVslide _ _ _ => true
  | .sampleOffset _ _ => true
  | .volumeSlide _ _ _ => true
  | .positionJump _ _ => true
  | .setVolume _ _ => true
  | .patternBreak _ _ => true
  | .extra _ x _ => m.isReservedSub x
  | .setSpeed _ _ => true
  | .newVolume _ _ => true
  | .waveSpeed _ _ => true
  | .arpSpeed _ _ => true
  | .fineSlideUp _ _ => true
  | .fineSlideDown _ _ => true
  | .trackVolume _ _ => true
  | .waveMode _ _ => true
  | .extEvent _ _ => true
  | .filter _ _ => true
  | .vibWave _ _ => true
  | .patternLoop _ _ => true
  | .patternDelay _ _ => true

end Sys2Proof
end

