-- ==== Sys2Proof/Decode.lean ====
section
/-! DEFINITION. The decoder, total on any 32-bit word and on any bytes (spec/30_encoding.md R140 to R163,
spec/20_memory.md R103), and the encoder (R172). -/

namespace Sys2Proof

/-- The five fields of a cell word (30_encoding.md R140); the pad bits are ignored (R162). -/
structure CellFields where
  arpidx : Nibble
  note : BitVec 6
  inst : BitVec 6
  fx : Code
  arg : Byte
deriving DecidableEq, Repr

/-- The head of a cell. -/
def CellFields.head (f : CellFields) : Head :=
  ⟨f.arpidx, f.note, f.inst⟩

/-- x = arg[7:4] (00_scope.md R17). -/
def argX (arg : Byte) : Nibble :=
  arg.extractLsb' 4 4

/-- y = arg[3:0] (00_scope.md R17). -/
def argY (arg : Byte) : Nibble :=
  arg.extractLsb' 0 4

/-- The argument byte with nibbles x and y. -/
def argOf (x y : Nibble) : Byte :=
  x ++ y

/-- The fields of a word (30_encoding.md R140, R141). -/
def fieldsOf (w : CellWord) : CellFields where
  arpidx := w.extractLsb' 30 2 ++ w.extractLsb' 22 2
  note := w.extractLsb' 24 6
  inst := w.extractLsb' 16 6
  fx := w.extractLsb' 8 6
  arg := w.extractLsb' 0 8

/-- The word of the fields, pad bits 0 (30_encoding.md R172). -/
def wordOf (f : CellFields) : CellWord :=
  f.arpidx.extractLsb' 2 2 ++ f.note ++ f.arpidx.extractLsb' 0 2 ++ f.inst ++ 0#2 ++ f.fx ++ f.arg

/-- What the decoder answers: an instruction, or a rejection by name. -/
inductive Decoded where
  /-- A row of spec/opcode_table.json. -/
  | instr (i : Instr)
  /-- A reserved effect code (30_encoding.md R160): no row. The sequencer still runs the cell as R160 says. -/
  | reservedEffect (f : CellFields)
  /-- Fewer than four bytes: no cell (30_encoding.md R142). -/
  | truncated
deriving DecidableEq, Repr

/-- The Extra rows: a CELL_EXTRA row takes precedence over the EXTRA row (30_encoding.md R152). -/
def classifyExtra (m : EffectCodeMap) (h : Head) (x y : Nibble) : Instr :=
  if x = m.filter then .filter h y
  else if x = m.vibWave then .vibWave h y
  else if x = m.patternLoop then .patternLoop h y
  else if x = m.patternDelay then .patternDelay h y
  else .extra h x y

/-- The row of 30_encoding.md R151 that the fields select under the code map. -/
def classify (m : EffectCodeMap) (f : CellFields) : Decoded :=
  if f.fx = m.arp then .instr (.arp f.head (argX f.arg) (argY f.arg))
  else if f.fx = m.slideUp then .instr (.slideUp f.head f.arg)
  else if f.fx = m.slideDown then .instr (.slideDown f.head f.arg)
  else if f.fx = m.tonePorta then .instr (.tonePorta f.head f.arg)
  else if f.fx = m.vibrato then .instr (.vibrato f.head (argX f.arg) (argY f.arg))
  else if f.fx = m.tonePortaVslide then .instr (.tonePortaVslide f.head (argX f.arg) (argY f.arg))
  else if f.fx = m.vibratoVslide then .instr (.vibratoVslide f.head (argX f.arg) (argY f.arg))
  else if f.fx = m.sampleOffset then .instr (.sampleOffset f.head f.arg)
  else if f.fx = m.volumeSlide then .instr (.volumeSlide f.head (argX f.arg) (argY f.arg))
  else if f.fx = m.positionJump then .instr (.positionJump f.head f.arg)
  else if f.fx = m.setVolume then .instr (.setVolume f.head f.arg)
  else if f.fx = m.patternBreak then .instr (.patternBreak f.head f.arg)
  else if f.fx = m.extra then .instr (classifyExtra m f.head (argX f.arg) (argY f.arg))
  else if f.fx = m.setSpeed then .instr (.setSpeed f.head f.arg)
  else if f.fx = m.newVolume then .instr (.newVolume f.head f.arg)
  else if f.fx = m.waveSpeed then .instr (.waveSpeed f.head f.arg)
  else if f.fx = m.arpSpeed then .instr (.arpSpeed f.head f.arg)
  else if f.fx = m.fineSlideUp then .instr (.fineSlideUp f.head f.arg)
  else if f.fx = m.fineSlideDown then .instr (.fineSlideDown f.head f.arg)
  else if f.fx = m.trackVolume then .instr (.trackVolume f.head f.arg)
  else if f.fx = m.waveMode then .instr (.waveMode f.head f.arg)
  else if f.fx = m.extEvent then .instr (.extEvent f.head f.arg)
  else .reservedEffect f

/-- Decode one cell word under a code map (30_encoding.md R152). -/
def decode (m : EffectCodeMap) (w : CellWord) : Decoded :=
  classify m (fieldsOf w)

/-- A cell word from its four container bytes in storage order, big-endian (20_memory.md R103). -/
def wordOfBytes (b0 b1 b2 b3 : Byte) : CellWord :=
  b0 ++ b1 ++ b2 ++ b3

/-- Byte k of a cell word in storage order (20_memory.md R103). -/
def byteOfWord (w : CellWord) (k : Nat) : Byte :=
  w.extractLsb' (8 * (3 - k)) 8

/-- Decode the first cell of a byte sequence (30_encoding.md R142: every instruction is four bytes). -/
def decodeBytes (m : EffectCodeMap) : List Byte → Decoded
  | b0 :: b1 :: b2 :: b3 :: _ => decode m (wordOfBytes b0 b1 b2 b3)
  | _ => .truncated

/-- The fields of an instruction's cell under a code map (30_encoding.md R151). -/
def Instr.fields (m : EffectCodeMap) : Instr → CellFields
  | .arp h x y => ⟨h.arpidx, h.note, h.inst, m.arp, argOf x y⟩
  | .slideUp h arg => ⟨h.arpidx, h.note, h.inst, m.slideUp, arg⟩
  | .slideDown h arg => ⟨h.arpidx, h.note, h.inst, m.slideDown, arg⟩
  | .tonePorta h arg => ⟨h.arpidx, h.note, h.inst, m.tonePorta, arg⟩
  | .vibrato h x y => ⟨h.arpidx, h.note, h.inst, m.vibrato, argOf x y⟩
  | .tonePortaVslide h x y => ⟨h.arpidx, h.note, h.inst, m.tonePortaVslide, argOf x y⟩
  | .vibratoVslide h x y => ⟨h.arpidx, h.note, h.inst, m.vibratoVslide, argOf x y⟩
  | .sampleOffset h arg => ⟨h.arpidx, h.note, h.inst, m.sampleOffset, arg⟩
  | .volumeSlide h x y => ⟨h.arpidx, h.note, h.inst, m.volumeSlide, argOf x y⟩
  | .positionJump h arg => ⟨h.arpidx, h.note, h.inst, m.positionJump, arg⟩
  | .setVolume h arg => ⟨h.arpidx, h.note, h.inst, m.setVolume, arg⟩
  | .patternBreak h arg => ⟨h.arpidx, h.note, h.inst, m.patternBreak, arg⟩
  | .extra h x y => ⟨h.arpidx, h.note, h.inst, m.extra, argOf x y⟩
  | .setSpeed h arg => ⟨h.arpidx, h.note, h.inst, m.setSpeed, arg⟩
  | .newVolume h arg => ⟨h.arpidx, h.note, h.inst, m.newVolume, arg⟩
  | .waveSpeed h arg => ⟨h.arpidx, h.note, h.inst, m.waveSpeed, arg⟩
  | .arpSpeed h arg => ⟨h.arpidx, h.note, h.inst, m.arpSpeed, arg⟩
  | .fineSlideUp h arg => ⟨h.arpidx, h.note, h.inst, m.fineSlideUp, arg⟩
  | .fineSlideDown h arg => ⟨h.arpidx, h.note, h.inst, m.fineSlideDown, arg⟩
  | .trackVolume h arg => ⟨h.arpidx, h.note, h.inst, m.trackVolume, arg⟩
  | .waveMode h arg => ⟨h.arpidx, h.note, h.inst, m.waveMode, arg⟩
  | .extEvent h arg => ⟨h.arpidx, h.note, h.inst, m.extEvent, arg⟩
  | .filter h y => ⟨h.arpidx, h.note, h.inst, m.extra, argOf m.filter y⟩
  | .vibWave h y => ⟨h.arpidx, h.note, h.inst, m.extra, argOf m.vibWave y⟩
  | .patternLoop h y => ⟨h.arpidx, h.note, h.inst, m.extra, argOf m.patternLoop y⟩
  | .patternDelay h y => ⟨h.arpidx, h.note, h.inst, m.extra, argOf m.patternDelay y⟩

/-- The cell word of an instruction (30_encoding.md R172). -/
def encode (m : EffectCodeMap) (i : Instr) : CellWord :=
  wordOf (i.fields m)

/-- The four container bytes of an instruction, in storage order. -/
def encodeBytes (m : EffectCodeMap) (i : Instr) : List Byte :=
  [byteOfWord (encode m i) 0, byteOfWord (encode m i) 1, byteOfWord (encode m i) 2, byteOfWord (encode m i) 3]

/-! Pseudo-instructions (30_encoding.md R171): each is exactly one cell. -/

/-- The head of a cell with no note, no instrument and arpeggio index 0. -/
def emptyHead : Head := ⟨0, 0, 0⟩

/-- `NOP`: the empty cell. -/
def pseudoNop : Instr := .arp emptyHead 0 0

/-- `LOOP_START`: PATTERN_LOOP with parameter 0. -/
def pseudoLoopStart : Instr := .patternLoop emptyHead 0

/-- `BREAK r`: break to row r of the next position, bcd(r) = (r div 10)*16 + r mod 10. -/
def pseudoBreak (r : Nat) : Instr := .patternBreak emptyHead (BitVec.ofNat 8 (r / 10 * 16 + r % 10))

/-- `JUMP p`: jump to position p. -/
def pseudoJump (p : Byte) : Instr := .positionJump emptyHead p

/-- The instruction the decoder reads, under the default code map, from a table word: the word's low nbits bits,
the rest 0, laid out as the four container bytes in storage order and given to `decodeBytes`. -/
def decodeTableWord (nbits w : Nat) : Option Instr :=
  let word : CellWord := BitVec.ofNat 32 (w % 2 ^ nbits)
  match decodeBytes EffectCodeMap.default
      [byteOfWord word 0, byteOfWord word 1, byteOfWord word 2, byteOfWord word 3] with
  | .instr i => some i
  | _ => none

end Sys2Proof
end

