-- ==== Sys2Proof/Machine/Memory.lean ====
section
/-! DEFINITION. A byte-addressed space of song memory (spec/20_memory.md R100): a list of (address, byte) pairs in one
canonical form, addresses strictly rising and no entry equal to what an unlisted address reads as. -/

namespace Sys2Proof.Machine

/-- One address space of song memory, indexed from 0 (20_memory.md R100). -/
abbrev Memory := List Host.Cell

/-- What an unlisted address of a space reads as (log entry 7): the loader stores every byte of the song
(70_reset_and_hazards.md R630), and a byte it stored as 0 is not listed. -/
def unlistedByte : Byte := 0

/-- MemRead of one byte (00_scope.md R14). -/
def Memory.read : Memory → Nat → Byte
  | [], _ => unlistedByte
  | (a, b) :: m, x => if a = x then b else Memory.read m x

/-- Put an entry before a list whose addresses are all larger, unless the entry would say what absence says. -/
def Memory.consCell (a : Nat) (b : Byte) (m : Memory) : Memory :=
  if b = unlistedByte then m else (a, b) :: m

/-- Store one byte. Only the loader stores into song memory (20_memory.md R100, R134); no rule of the block does. -/
def Memory.write : Memory → Nat → Byte → Memory
  | [], x, v => Memory.consCell x v []
  | (a, b) :: m, x, v =>
    if a < x then (a, b) :: Memory.write m x v
    else if a = x then Memory.consCell x v m
    else Memory.consCell x v ((a, b) :: m)

/-- The canonical form. -/
def Memory.wf (m : Memory) : Bool :=
  decide (List.Pairwise (fun p q : Host.Cell => p.1 < q.1) m) && m.all (fun p => p.2 != unlistedByte)

/-- Every listed address is below n. -/
def Memory.below (m : Memory) (n : Nat) : Bool :=
  m.all (fun p => decide (p.1 < n))

end Sys2Proof.Machine
end

