-- ==== Sys2Proof/Machine/Song.lean ====
section
/-! DEFINITION. Song memory: the six read-only spaces of spec/20_memory.md R100, their contents as the loader delivers
them, every read of them, and the load preconditions of spec/70_reset_and_hazards.md R630. -/

namespace Sys2Proof.Machine

/-- The two variants (00_scope.md R2). -/
inductive Variant where
  | aon4
  | aon8
deriving DecidableEq, Repr

/-- N_CH (00_scope.md R2, R9). -/
def Variant.nch : Variant → Nat
  | .aon4 => 4
  | .aon8 => 8

/-- The channels 0, 1, …, N_CH-1 in the order every loop visits them (40_sequencer.md R205). -/
def Variant.channels : Variant → List Channel
  | .aon4 => [0, 1, 2, 3]
  | .aon8 => [0, 1, 2, 3, 4, 5, 6, 7]

/-- The wavetable loop modes (10_state.md R62, 46_synth_engine.md R480). -/
inductive LoopMode where
  | normal
  | backward
  | pingpong
deriving DecidableEq, Repr

/-- The fields only a SAMPLE instrument has, in words (20_memory.md R108). -/
structure SampleBody where
  start : BitVec 16
  len : BitVec 16
  loopStart : BitVec 16
  loopLen : BitVec 16
deriving DecidableEq, Repr

/-- The fields only a SYNTH instrument has (20_memory.md R108). -/
structure SynthBody where
  waveLen : BitVec 16
  vibDelay : Byte
  vibSpeed : Byte
  vibDepth : Byte
  vibWave : BitVec 2
  wlSpeed : Byte
  wlStart : Byte
  wlLen : Byte
  wlCtrl : BitVec 2
deriving DecidableEq, Repr

/-- The variant tag `kind` and the fields it makes meaningful (20_memory.md R108, R109). -/
inductive InstrumentBody where
  | sample (b : SampleBody)
  | synth (b : SynthBody)
deriving DecidableEq, Repr

/-- A decoded instrument descriptor (20_memory.md R108). -/
structure Instrument where
  volume : BitVec 7
  finetune : BitVec 4
  adsrStart : Byte
  adsrAdd : Byte
  adsrEnd : Byte
  adsrSub : Byte
  wave : Byte
  body : InstrumentBody
deriving DecidableEq, Repr

/-- A waveform: WLEN[k] and the bytes of WAVE[k] (20_memory.md R114). -/
structure Waveform where
  len : Nat
  bytes : Memory
deriving DecidableEq, Repr

/-- Song memory and the song constants (20_memory.md R100, R105). -/
structure Song where
  variant : Variant
  /-- NUM_POSITIONS. -/
  numPositions : Nat
  /-- RESTART. -/
  restart : Byte
  /-- NUM_PATTERNS. -/
  numPatterns : Nat
  /-- PAT, as the container bytes of the PATT chunk: four a cell. -/
  pat : Memory
  /-- POS. -/
  pos : Memory
  /-- ARP. -/
  arp : Memory
  /-- INS, numbered from 1. -/
  instruments : List Instrument
  /-- WAVE[k], numbered from 0. -/
  waves : List Waveform
deriving DecidableEq, Repr

/-- The smallest song that meets R630, with nothing listed (log entry 4): AON4, one position, one pattern of empty
cells, no instrument, no waveform. -/
def Song.blank : Song where
  variant := .aon4
  numPositions := 1
  restart := 0
  numPatterns := 1
  pat := []
  pos := []
  arp := []
  instruments := []
  waves := []

/-- NUM_INSTR. -/
def Song.numInstr (g : Song) : Nat := g.instruments.length

/-- NUM_WAVES. -/
def Song.numWaves (g : Song) : Nat := g.waves.length

/-- The PAT byte address of Cell(pat, row, ch): four times the cell index (20_memory.md R102). -/
def Song.cellAddr (g : Song) (pat row ch : Nat) : Nat :=
  4 * ((pat * rowsPerPattern + row) * g.variant.nch + ch)

/-- The word whose four bytes stand at an address of a space, big-endian (20_memory.md R103). -/
def readWord (m : Memory) (a : Nat) : CellWord :=
  wordOfBytes (m.read a) (m.read (a + 1)) (m.read (a + 2)) (m.read (a + 3))

/-- Store a word's four bytes, big-endian (20_memory.md R103). -/
def writeWord (m : Memory) (a : Nat) (w : CellWord) : Memory :=
  (((m.write a (byteOfWord w 0)).write (a + 1) (byteOfWord w 1)).write (a + 2) (byteOfWord w 2)).write (a + 3)
    (byteOfWord w 3)

/-- Cell(pat, row, ch); none outside PAT (20_memory.md R102, R116). -/
def Song.cellAt (g : Song) (pat row ch : Nat) : Option CellWord :=
  if pat < g.numPatterns ∧ row < rowsPerPattern ∧ ch < g.variant.nch then some (readWord g.pat (g.cellAddr pat row ch))
  else none

/-- PosList(p); none outside POS (20_memory.md R104). -/
def Song.posAt (g : Song) (p : Nat) : Option Byte :=
  if p < g.numPositions then some (g.pos.read p) else none

/-- Instr(i), i in [1, NUM_INSTR]; none otherwise (20_memory.md R108, R116). -/
def Song.instrumentAt (g : Song) (i : Nat) : Option Instrument :=
  if i = 0 then none else g.instruments[i - 1]?

/-- The byte at offset a of WAVE[k]; none if k >= NUM_WAVES or a >= WLEN[k] (20_memory.md R114, R116). -/
def Song.waveAt (g : Song) (k a : Nat) : Option Byte :=
  match g.waves[k]? with
  | none => none
  | some w => if a < w.len then some (w.bytes.read a) else none

/-- The 8 nibbles of ArpEntry(j), high nibble of each byte first (20_memory.md R112). -/
def Song.arpNibbles (g : Song) (j : Nat) : List Nibble :=
  let b := fun k => g.arp.read (4 * j + k)
  [argX (b 0), argY (b 0), argX (b 1), argY (b 1), argX (b 2), argY (b 2), argX (b 3), argY (b 3)]

/-- The loader's store of one cell. -/
def Song.setCell (g : Song) (pat row ch : Nat) (w : CellWord) : Song :=
  { g with pat := writeWord g.pat (g.cellAddr pat row ch) w }

/-- "loader clamps to 0 otherwise" (20_memory.md R105, 70_reset_and_hazards.md R630 condition 2). -/
def Song.clampRestart (g : Song) : Song :=
  if g.restart.toNat < g.numPositions then g else { g with restart := 0 }

/-- R630 condition 6 for one instrument; the widths of R108 are those of its fields. R108's range 0..64 of the volume is no
condition of R630: a volume above it loads, and is clamped where it is written to V.volume (log entry 20). -/
def Instrument.wf (i : Instrument) (numWaves : Nat) : Bool :=
  decide (i.wave.toNat < numWaves)

/-- R630 condition 7 for one waveform. -/
def Waveform.wf (w : Waveform) : Bool :=
  w.bytes.wf && w.bytes.below w.len

/-- The load preconditions (70_reset_and_hazards.md R630) and the sizes of 00_scope.md R10, with every space in its
canonical form and inside its size. Condition 1 is the type of `variant`; the variant tag of condition 6 is the type of
`body`. NUM_WAVES is bounded as 92_eei_decisions.md D53 says (log entry 19). The sizes of R10 are no conditions of R630 (log
entry 20). -/
def Song.wf (g : Song) : Bool :=
  decide (1 ≤ g.numPositions) && decide (g.numPositions ≤ 256) && decide (g.restart.toNat < g.numPositions)
  && decide (1 ≤ g.numPatterns) && decide (g.numPatterns ≤ 256)
  && (List.range g.numPositions).all (fun p => decide ((g.pos.read p).toNat < g.numPatterns))
  && g.pos.wf && g.pos.below g.numPositions
  && g.pat.wf && g.pat.below (4 * (g.numPatterns * rowsPerPattern * g.variant.nch))
  && g.arp.wf && g.arp.below 64
  && decide (g.numInstr ≤ 63) && g.instruments.all (fun i => i.wf g.numWaves)
  && decide (g.numWaves ≤ 256) && g.waves.all (fun w => w.wf)

end Sys2Proof.Machine
end

