-- ==== Sys2Proof/Machine/State.lean ====
section
/-! DEFINITION. The state of the block (spec/10_state.md), the reasons a step can stop, and the state after reset
(spec/70_reset_and_hazards.md R620). -/

namespace Sys2Proof.Machine

/-- S: the sequencer state, one per block (10_state.md R30 to R35, R83). -/
structure Seq where
  /-- S.pos (R31). -/
  pos : BitVec 8
  /-- S.row, the next row to load (R31, 40_sequencer.md R212). -/
  row : BitVec 6
  /-- S.tick (R31). -/
  tick : BitVec 8
  /-- S.speed (R32). -/
  speed : BitVec 8
  /-- S.tempo (R32). -/
  tempo : BitVec 8
  /-- S.spt (R32). -/
  spt : BitVec 32
  /-- S.acc, signed (R32). -/
  acc : BitVec 32
  /-- S.jmp (R33). -/
  jmp : Bool
  /-- S.jmp_pos (R33). -/
  jmpPos : BitVec 8
  /-- S.brk (R33). -/
  brk : Bool
  /-- S.brk_row (R33). -/
  brkRow : BitVec 6
  /-- S.loop_flag (R33). -/
  loopFlag : Bool
  /-- S.loop_row (R33). -/
  loopRow : BitVec 6
  /-- S.loop_cnt (R33). -/
  loopCnt : BitVec 8
  /-- S.delay, signed, -1 unarmed (R33). -/
  delay : BitVec 8
  /-- S.first (R34). -/
  first : Bool
  /-- S.loops (R35). -/
  loops : BitVec 32
  /-- S.cur_pos (R83). -/
  curPos : BitVec 8
  /-- S.cur_row (R83). -/
  curRow : BitVec 6
deriving DecidableEq, Repr

/-- V[c]: a voice register bank (10_state.md R40 to R46). -/
structure Voice where
  /-- V.inst (R41). -/
  inst : BitVec 6
  /-- V.note (R41). -/
  note : BitVec 6
  /-- V.ft (R41). -/
  ft : BitVec 4
  /-- V.is_synth (R41). -/
  isSynth : Bool
  /-- V.period (R42). -/
  period : BitVec 16
  /-- V.out_period (R42). -/
  outPeriod : BitVec 16
  /-- V.porta_target (R42). -/
  portaTarget : BitVec 16
  /-- V.porta_speed (R42). -/
  portaSpeed : BitVec 8
  /-- V.volume (R43). -/
  volume : BitVec 7
  /-- V.track_vol (R43). -/
  trackVol : BitVec 7
  /-- V.fx (R44). -/
  fx : Code
  /-- V.arg (R44). -/
  arg : Byte
  /-- V.arpidx (R44). -/
  arpidx : Nibble
  /-- V.vib_speed (R45). -/
  vibSpeed : Nibble
  /-- V.vib_amp (R45): [3:0] depth, [5:4] table, [7:6] unused. -/
  vibAmp : Byte
  /-- V.vib_pos (R45). -/
  vibPos : BitVec 5
  /-- V.vib_sign (R45). -/
  vibSign : Bool
  /-- V.arp_list, signed entries (R46). -/
  arpList : Vector (BitVec 8) 9
  /-- V.arp_pos (R46). -/
  arpPos : BitVec 4
  /-- V.arp_ctr (R46). -/
  arpCtr : BitVec 8
  /-- V.arp_speed (R46). -/
  arpSpeed : BitVec 8
  /-- V.arp_out (R46). -/
  arpOut : BitVec 16
  /-- V.arp_on (R46). -/
  arpOn : Bool
deriving DecidableEq, Repr

/-- The envelope phases (10_state.md R61; the fourth 2-bit value is unused). -/
inductive EnvPhase where
  | add
  | sub
  | done
deriving DecidableEq, Repr

/-- Y[c]: a synth and envelope bank (10_state.md R60 to R63). -/
structure Synth where
  /-- Y.svol (R61). -/
  svol : BitVec 7
  /-- Y.env (R61). -/
  env : EnvPhase
  /-- Y.add (R61). -/
  add : Byte
  /-- Y.end (R61). -/
  endLevel : Byte
  /-- Y.sub (R61). -/
  sub : Byte
  /-- Y.wave (R62). -/
  wave : Byte
  /-- Y.wlen, bytes per wave (R62). -/
  wlen : BitVec 17
  /-- Y.widx (R62). -/
  widx : Byte
  /-- Y.wdir, true = -1 (R62). -/
  wdir : Bool
  /-- Y.wl_start (R62). -/
  wlStart : Byte
  /-- Y.wl_len (R62). -/
  wlLen : Byte
  /-- Y.wmode (R62). -/
  wmode : LoopMode
  /-- Y.wspeed (R62). -/
  wspeed : Byte
  /-- Y.wctr (R62). -/
  wctr : Byte
  /-- Y.vdelay (R63). -/
  vdelay : Byte
  /-- Y.vspeed (R63). -/
  vspeed : Byte
  /-- Y.vdepth (R63). -/
  vdepth : Byte
  /-- Y.vwave (R63). -/
  vwave : BitVec 2
  /-- Y.vpos (R63). -/
  vpos : BitVec 5
  /-- Y.vsign (R63). -/
  vsign : Bool
deriving DecidableEq, Repr

/-- M[c]: a mixer channel (10_state.md R67 to R70). Rationals are exact (MIX_NUM, 00_scope.md R10). -/
structure Mixer where
  /-- M.active (R68). -/
  active : Bool
  /-- M.cur_wave (R68). -/
  curWave : Byte
  /-- M.cur_off (R68). -/
  curOff : BitVec 32
  /-- M.cur_len (R68). -/
  curLen : BitVec 32
  /-- M.loop_valid (R68). -/
  loopValid : Bool
  /-- M.loop_wave (R68). -/
  loopWave : Byte
  /-- M.loop_off (R68). -/
  loopOff : BitVec 32
  /-- M.loop_len (R68). -/
  loopLen : BitVec 32
  /-- M.phase (R69). -/
  phase : Rat
  /-- M.inc (R69). -/
  inc : Rat
  /-- M.gain (R70). -/
  gain : Rat
  /-- M.pan_l (R70). -/
  panL : Rat
  /-- M.pan_r (R70). -/
  panR : Rat
deriving DecidableEq, Repr

/-- SC[c] and SC_wp[c]: a scope ring (10_state.md R71). -/
structure Scope where
  ring : List Rat
  wp : Nat
deriving DecidableEq, Repr

/-- The register banks of one channel. -/
structure Chan where
  v : Voice
  y : Synth
  m : Mixer
  sc : Scope
  /-- dv[c]: the per-tick vibrato delta (40_sequencer.md R204), the model's own field (log entry 2). -/
  dv : Int
deriving DecidableEq, Repr

/-- CR: the stored part of the host-visible registers (10_state.md R80 to R82); the rest of the map is views. -/
structure Ctrl where
  /-- CTRL.SCOPE_EN. -/
  scopeEn : Bool
  /-- STATUS (R82). -/
  status : BitVec 32
  /-- SAMPLE_RATE. -/
  sampleRate : BitVec 32
  /-- STEREO_MIX.k. -/
  stereoMix : BitVec 9
deriving DecidableEq, Repr

/-- One output frame (L, R) (47_mixer.md R553). -/
abbrev Frame := Rat × Rat

/-- The whole state. -/
structure State where
  /-- The parameters (10_state.md R85): no step changes them. -/
  cfg : Config
  /-- A song is held (60_exceptions.md R582, R596). -/
  loaded : Bool
  /-- Song memory (10_state.md R85): no step changes it. -/
  song : Song
  /-- S. -/
  seq : Seq
  /-- The channel banks; the song's N_CH says how many exist (R40). Banks at and above N_CH are never touched. -/
  chans : Vector Chan 8
  /-- CR. -/
  cr : Ctrl
  /-- The output frame stream (47_mixer.md R553), oldest frame first. -/
  out : List Frame
  /-- The loop variable c while a row's cells run, the model's own field (log entry 2); 0 between steps. -/
  ch : Channel
deriving DecidableEq, Repr

/-- The reasons a step can fault: none. "The block raises no exception, trap or interrupt while playing. No cell,
register value or song content makes it stop" (60_exceptions.md R580). -/
inductive Fault where
deriving DecidableEq, Repr

/-- The reasons a step can be refused. -/
inductive Refusal where
  /-- An instruction that has no meaning yet; raised by an arm of exec only. Safe. No arm raises it now. -/
  | notModelled (mnemonic : String)
  /-- No song is held: "Operations before a successful CREATE, or after a failed one, are refused"
  (60_exceptions.md R596). Raised by step and by the host operations other than CREATE. Safe: it is the spec's own. -/
  | noSong
deriving DecidableEq, Repr

/-! Reset values (10_state.md R31 to R71, the reset columns). -/

/-- S at reset; S.spt is SAMPLE_RATE div 50 (R32), given the sample rate. -/
def Seq.reset (sampleRate : BitVec 32) : Seq where
  pos := 0
  row := 0
  tick := 5
  speed := 6
  tempo := 125
  spt := BitVec.ofNat 32 (sampleRate.toNat / 50)
  acc := 0
  jmp := false
  jmpPos := 0
  brk := false
  brkRow := 0
  loopFlag := false
  loopRow := 0
  loopCnt := 0
  delay := BitVec.ofInt 8 (-1)
  first := false
  loops := 0
  curPos := 0
  curRow := 0

/-- V[c] at reset (R41 to R46). -/
def Voice.reset : Voice where
  inst := 0
  note := 0
  ft := 0
  isSynth := false
  period := 0
  outPeriod := 0
  portaTarget := 0
  portaSpeed := 0
  volume := 0
  trackVol := 64
  fx := 0
  arg := 0
  arpidx := 0
  vibSpeed := 0
  vibAmp := 0
  vibPos := 0
  vibSign := false
  arpList := Vector.replicate 9 (BitVec.ofInt 8 (-1))
  arpPos := 0
  arpCtr := 0
  arpSpeed := 1
  arpOut := 0
  arpOn := false

/-- Y[c] at reset (R61 to R63). -/
def Synth.reset : Synth where
  svol := 0
  env := .done
  add := 0
  endLevel := 0
  sub := 0
  wave := 0
  wlen := 0
  widx := 0
  wdir := false
  wlStart := 0
  wlLen := 0
  wmode := .normal
  wspeed := 0
  wctr := 0
  vdelay := 0
  vspeed := 0
  vdepth := 0
  vwave := 0
  vpos := 0
  vsign := false

/-- M[c] at reset (R68 to R70) with the given pan gains. -/
def Mixer.reset (panL panR : Rat) : Mixer where
  active := false
  curWave := 0
  curOff := 0
  curLen := 0
  loopValid := false
  loopWave := 0
  loopOff := 0
  loopLen := 0
  phase := 0
  inc := 0
  gain := 0
  panL := panL
  panR := panR

/-- SC[c] and SC_wp[c] at reset (R71). -/
def Scope.reset (scopeLen : Nat) : Scope where
  ring := List.replicate scopeLen 0
  wp := 0

/-- The banks of a channel at reset. -/
def Chan.reset (scopeLen : Nat) (panL panR : Rat) : Chan where
  v := Voice.reset
  y := Synth.reset
  m := Mixer.reset panL panR
  sc := Scope.reset scopeLen
  dv := 0

/-- CR after CREATE: the reset column of R80. -/
def Ctrl.reset : Ctrl where
  scopeEn := false
  status := 0
  sampleRate := 48000
  stereoMix := 0

/-- The block right after reset (70_reset_and_hazards.md R620, R621), holding the song with nothing listed (log entry 4)
under the default parameters. The pan gains are those of AON4's table L, R, R, L at m = 0 (R548, R549); the banks 4 to 7
that an AON4 song does not have hold 0 there. -/
def State.reset : State where
  cfg := Config.default
  loaded := true
  song := Song.blank
  seq := Seq.reset 48000
  chans :=
    #v[Chan.reset 1024 1 0, Chan.reset 1024 0 1, Chan.reset 1024 0 1, Chan.reset 1024 1 0,
       Chan.reset 1024 0 0, Chan.reset 1024 0 0, Chan.reset 1024 0 0, Chan.reset 1024 0 0]
  cr := Ctrl.reset
  out := []
  ch := 0

end Sys2Proof.Machine
end

