-- ==== Sys2Proof/Machine/Flags.lean ====
section
/-! DEFINITION. The sticky bits of CR.STATUS and the one operation that sets them (spec/10_state.md R82,
spec/60_exceptions.md R581). The effects compute no other flag. -/

namespace Sys2Proof.Machine

/-- The four events (60_exceptions.md R581). -/
inductive Event where
  | rsvdFx
  | rsvdExtra
  | oobRead
  | songEnd
deriving DecidableEq, Repr

/-- The code of an event: its bit number in STATUS (60_exceptions.md R581). -/
def Event.code : Event → Nat
  | .rsvdFx => 0
  | .rsvdExtra => 1
  | .oobRead => 2
  | .songEnd => 3

/-- `flag(bit)` (00_scope.md R15): the only "raise" of the block. It sets one sticky bit and does nothing else; no state is
saved, no mode changes, no control is transferred (60_exceptions.md R587), and there is nothing to return from (R588). -/
def flag (e : Event) (s : State) : State :=
  { s with cr := { s.cr with status := s.cr.status ||| (1#32 <<< e.code) } }

/-- Whether a STATUS bit is set (10_state.md R82). -/
def flagged (e : Event) (s : State) : Bool :=
  s.cr.status.getLsbD e.code

/-- Raise an event when a condition holds. -/
def flagIf (b : Bool) (e : Event) (s : State) : State :=
  if b then flag e s else s

end Sys2Proof.Machine
end

