-- ==== Sys2Proof/Machine/Ops.lean ====
section
/-! DEFINITION. The named operations over the state: access to the register banks (spec/00_scope.md R13), the reads of
song memory with their out-of-range results (spec/20_memory.md R116), and the sequencing of outcomes. Taking an exception
is `flag` of Flags.lean: the block has no other (spec/60_exceptions.md R580 to R588). -/

namespace Sys2Proof.Machine

/-- The outcome of a step of this machine. -/
abbrev Result := Host.Outcome State Fault Refusal

/-- Run f on the next state, if there is one. -/
def andThen (r : Result) (f : State → Result) : Result :=
  match r with
  | .next s => f s
  | .fault x => .fault x
  | .refused x => .refused x

/-- The banks of channel c. -/
def State.chan (s : State) (c : Channel) : Chan :=
  s.chans[c.val]

/-- V[c] (00_scope.md R13). -/
def State.voice (s : State) (c : Channel) : Voice := (s.chan c).v
/-- Y[c]. -/
def State.synth (s : State) (c : Channel) : Synth := (s.chan c).y
/-- M[c]. -/
def State.mixer (s : State) (c : Channel) : Mixer := (s.chan c).m
/-- SC[c], SC_wp[c]. -/
def State.scope (s : State) (c : Channel) : Scope := (s.chan c).sc
/-- dv[c] (40_sequencer.md R204). -/
def State.dv (s : State) (c : Channel) : Int := (s.chan c).dv

/-- Write the banks of channel c. -/
def State.setChan (s : State) (c : Channel) (k : Chan) : State :=
  { s with chans := s.chans.set c.val k }

/-- `V[c] <- v`. -/
def State.setVoice (s : State) (c : Channel) (v : Voice) : State :=
  s.setChan c { s.chan c with v := v }
/-- `Y[c] <- y`. -/
def State.setSynth (s : State) (c : Channel) (y : Synth) : State :=
  s.setChan c { s.chan c with y := y }
/-- `M[c] <- m`. -/
def State.setMixer (s : State) (c : Channel) (m : Mixer) : State :=
  s.setChan c { s.chan c with m := m }
/-- `SC[c] <- sc`. -/
def State.setScope (s : State) (c : Channel) (sc : Scope) : State :=
  s.setChan c { s.chan c with sc := sc }
/-- `dv[c] <- d`. -/
def State.setDv (s : State) (c : Channel) (d : Int) : State :=
  s.setChan c { s.chan c with dv := d }
/-- `S <- q`. -/
def State.setSeq (s : State) (q : Seq) : State :=
  { s with seq := q }

/-- N_CH (00_scope.md R2). -/
def State.nch (s : State) : Nat := s.song.variant.nch

/-- The channels of the song in loop order (40_sequencer.md R205). -/
def State.channels (s : State) : List Channel := s.song.variant.channels

/-- `for c in 0..N_CH-1: f(c)` for a phase that cannot stop (40_sequencer.md R205). -/
def forChannels (f : Channel → State → State) (s : State) : State :=
  s.channels.foldl (fun t c => f c t) s

/-- `for c in …: f(c)` for cells, with the loop variable in `ch` (40_sequencer.md R205, log entry 2). -/
def runChannels (f : State → Result) : List Channel → State → Result
  | [], s => .next { s with ch := 0 }
  | c :: cs, s => andThen (f { s with ch := c }) (runChannels f cs)

/-- PosList(p) and whether the read fell outside POS (20_memory.md R104; log entry 10 for p >= NUM_POSITIONS). -/
def posList (s : State) (p : BitVec 8) : Byte × Bool :=
  match s.song.posAt p.toNat with
  | some b => (b, false)
  | none => (unlistedByte, true)

/-- Wave(k, a) = sext_8 of a waveform byte, and whether the read fell outside; outside it reads 0 (00_scope.md R14,
20_memory.md R114, R116). -/
def waveRead (s : State) (k : Byte) (a : Nat) : Int × Bool :=
  match s.song.waveAt k.toNat a with
  | some b => (b.toInt, false)
  | none => (0, true)

end Sys2Proof.Machine
end

