-- ==== Sys2Proof/Machine/Operands.lean ====
section
/-! DEFINITION. The operand forms and the arithmetic helpers of the rules (spec/00_scope.md R12, spec/30_encoding.md R146,
R147, spec/42_tick_gated_effects.md R303, spec/45_arpeggio.md R430, R445, spec/47_mixer.md R548, R549). -/

namespace Sys2Proof.Machine

/-- `clamp(lo, hi, v)` on unbounded integers (00_scope.md R12). -/
def clamp (lo hi v : Int) : Int :=
  if v < lo then lo else if hi < v then hi else v

/-- ClampPeriod (42_tick_gated_effects.md R303). -/
def clampPeriod (v : Int) : BitVec 16 :=
  BitVec.ofInt 16 (clamp periodMin periodMax v)

/-- The volume clamp (42_tick_gated_effects.md R304). -/
def clampVolume (v : Int) : BitVec 7 :=
  BitVec.ofInt 7 (clamp 0 volMax v)

/-- The synth-volume clamp (43_every_tick_effects.md R364). -/
def clampSynthVolume (v : Int) : BitVec 7 :=
  BitVec.ofInt 7 (clamp 0 svolMax v)

/-- PERIOD_TABLE[ft][n'] for n' in 1..60 (45_arpeggio.md R431). -/
def periodEntry (cfg : Config) (ft : BitVec 4) (n : Nat) : BitVec 16 :=
  (cfg.periodTable[ft.toNat]'ft.isLt)[min (n - 1) 59]'(by omega)

/-- PeriodOf(ft, n) for an integer note n (45_arpeggio.md R430). -/
def periodOf (cfg : Config) (ft : BitVec 4) (n : Int) : BitVec 16 :=
  clampPeriod (periodEntry cfg ft (clamp 1 noteMax n).toNat).toNat

/-- BreakRow(arg) (30_encoding.md R147). -/
def breakRow (arg : Byte) : BitVec 6 :=
  let halved := (arg &&& 0xF0#8).toNat >>> 1
  let r := halved + (halved >>> 2) + (arg &&& 0x0F#8).toNat
  if 64 ≤ r then 0 else BitVec.ofNat 6 r

/-- The page operand of SAMPLE_OFFSET in bytes (30_encoding.md R146). -/
def pageOffset (arg : Byte) : Nat :=
  arg.toNat * 256

/-- (VIB_TABLE[min(sel, 2)][pos] * depth) >> 7 (42_tick_gated_effects.md R307, 46_synth_engine.md R490). -/
def vibDelta (cfg : Config) (sel : BitVec 2) (pos : BitVec 5) (depth : Nat) : Nat :=
  (((cfg.vibTable[min sel.toNat 2]'(by omega))[pos.toNat]'pos.isLt).toNat * depth) >>> 7

/-- A delta with the half-cycle sign (42_tick_gated_effects.md R307). -/
def signedDelta (sign : Bool) (delta : Nat) : Int :=
  if sign then -(delta : Int) else delta

/-- The depth bits [3:0] of vib_amp (10_state.md R45). -/
def vibDepth (amp : Byte) : Nibble :=
  amp.extractLsb' 0 4

/-- The table-select bits [5:4] of vib_amp (10_state.md R45). -/
def vibSelect (amp : Byte) : BitVec 2 :=
  amp.extractLsb' 4 2

/-- vib_amp with bits [3:0] replaced (42_tick_gated_effects.md R320). -/
def withVibDepth (amp : Byte) (depth : Nibble) : Byte :=
  amp.extractLsb' 4 4 ++ depth

/-- vib_amp with bits [5:4] replaced (44_extra_effects.md R404). -/
def withVibSelect (amp : Byte) (sel : BitVec 2) : Byte :=
  amp.extractLsb' 6 2 ++ sel ++ amp.extractLsb' 0 4

/-- SIDE[c] = L (47_mixer.md R548); channels a variant does not have have no side. -/
def sideIsLeft : Variant → Channel → Option Bool
  | .aon4, c => [true, false, false, true][c.val]?
  | .aon8, c => [true, true, false, false, false, false, true, true][c.val]?

/-- m = CR.STEREO_MIX.k / 256 (47_mixer.md R549). -/
def stereoFactor (k : BitVec 9) : Rat :=
  (k.toNat : Rat) / 256

/-- (pan_l, pan_r) of a channel (47_mixer.md R549). -/
def panGains (var : Variant) (k : BitVec 9) (c : Channel) : Rat × Rat :=
  match sideIsLeft var c with
  | some true => (1 - stereoFactor k / 2, stereoFactor k / 2)
  | some false => (stereoFactor k / 2, 1 - stereoFactor k / 2)
  | none => (0, 0)

end Sys2Proof.Machine
end

