-- ==== Sys2Proof/Machine/Sequencer.lean ====
section
/-! DEFINITION. The sequencer's own rules: tick length, row begin, row end, position change (spec/40_sequencer.md R201,
R210, R214). The loops over the cells are in Machine/Frame.lean. -/

namespace Sys2Proof.Machine

/-- tps = (tempo * 2) div 5 (40_sequencer.md R201). -/
def ticksPerSecond (tempo : BitVec 8) : Nat :=
  tempo.toNat * 2 / 5

/-- S.spt = SAMPLE_RATE div tps (40_sequencer.md R201). -/
def samplesPerTick (sampleRate : BitVec 32) (tempo : BitVec 8) : BitVec 32 :=
  BitVec.ofNat 32 (sampleRate.toNat / ticksPerSecond tempo)

/-- RecomputeSPT (40_sequencer.md R201). -/
def recomputeSpt (s : State) : State :=
  s.setSeq { s.seq with spt := samplesPerTick s.cr.sampleRate s.seq.tempo }

/-- S.loops + 1, saturating (10_state.md R35, 40_sequencer.md R214). -/
def bumpLoops (loops : BitVec 32) : BitVec 32 :=
  BitVec.ofNat 32 (min (loops.toNat + 1) (2 ^ 32 - 1))

/-- The position NextPosition computes before the wrap test: the jump target, or the next position (R214). -/
def targetPosition (q : Seq) : Nat :=
  if q.jmp then q.jmpPos.toNat else q.pos.toNat + 1

/-- NextPosition (40_sequencer.md R214). -/
def nextPosition (s : State) : State :=
  let p := targetPosition s.seq
  let q := { s.seq with
    delay := BitVec.ofInt 8 (-1)
    loopRow := 0
    loopCnt := 0
    row := if s.seq.brk then s.seq.brkRow else 0 }
  if s.song.numPositions ≤ p then
    flag .songEnd (s.setSeq { q with loops := bumpLoops q.loops, pos := s.song.restart })
  else s.setSeq { q with pos := BitVec.ofNat 8 p }

/-- The pattern-delay counter is armed (10_state.md R33, 40_sequencer.md R210 step 1). -/
def delayArmed (q : Seq) : Bool :=
  decide (0 ≤ q.delay.toInt)

/-- RowAdvance step 1 on an armed counter: decrement (40_sequencer.md R210). -/
def stallRow (s : State) : State :=
  s.setSeq { s.seq with delay := BitVec.ofInt 8 (s.seq.delay.toInt - 1) }

/-- RowAdvance before its cells: S.first, the snapshot registers, the row's flags (40_sequencer.md R210). -/
def beginRow (s : State) : State :=
  s.setSeq { s.seq with
    first := true
    curPos := s.seq.pos
    curRow := s.seq.row
    jmp := false
    brk := false
    loopFlag := false }

/-- RowAdvance steps 3 to 5, after the row's cells (40_sequencer.md R210). -/
def endRow (s : State) : State :=
  if s.seq.loopFlag then s.setSeq { s.seq with row := s.seq.loopRow }
  else if s.seq.jmp || s.seq.brk then nextPosition s
  else if s.seq.row.toNat + 1 < rowsPerPattern then
    s.setSeq { s.seq with row := BitVec.ofNat 6 (s.seq.row.toNat + 1) }
  else nextPosition s

end Sys2Proof.Machine
end

