-- ==== Sys2Proof/Machine/Arpeggio.lean ====
section
/-! DEFINITION. The arpeggio setup, the arpeggio engine and the composition of the output period
(spec/45_arpeggio.md R434, R436, R440). -/

namespace Sys2Proof.Machine

/-- The sentinel -1 (10_state.md R46). -/
def arpSentinel : BitVec 8 := BitVec.ofInt 8 (-1)

/-- V.arp_list[i]; past the nine entries there is only the sentinel. -/
def arpEntryAt (l : Vector (BitVec 8) 9) (i : Nat) : BitVec 8 :=
  if h : i < 9 then l[i] else arpSentinel

/-- L followed by -1 in every remaining entry of the 9 (45_arpeggio.md R434). -/
def arpListOf (l : List Nibble) : Vector (BitVec 8) 9 :=
  Vector.ofFn (fun i => match l[i.val]? with
    | some n => n.setWidth 8
    | none => arpSentinel)

/-- The offset list of an ARP cell (45_arpeggio.md R433, R434): [0, x, y], or the table nibbles before the end marker. -/
def arpOffsets (s : State) (arpidx : Nibble) (arg : Byte) : List Nibble :=
  if arg = 0 then (s.song.arpNibbles arpidx.toNat).takeWhile (fun n => n != s.cfg.arpEnd)
  else [0, argX arg, argY arg]

/-- Put an offset list in force on a voice (45_arpeggio.md R434, the last five lines). -/
def armArpeggio (l : List Nibble) (v : Voice) : Voice :=
  let list := arpListOf l
  let v1 := if v.arpOn then { v with arpList := list }
    else { v with arpList := list, arpPos := 0, arpCtr := 0, arpOut := v.period }
  let pos := if (arpEntryAt list v1.arpPos.toNat).toInt < 0 then 0 else v1.arpPos
  { v1 with arpPos := pos, arpOn := true }

/-- ArpSetup, at the end of every RowLoad (45_arpeggio.md R434). -/
def arpSetup (c : Channel) (s : State) : State :=
  let v := s.voice c
  if v.fx ≠ s.cfg.codes.arp ∨ (v.arg = 0 ∧ v.arpidx = 0) then s.setVoice c { v with arpOn := false }
  else
    match arpOffsets s v.arpidx v.arg with
    | [] => s.setVoice c { v with arpOn := false }
    | l => s.setVoice c (armArpeggio l v)

/-- One step of a voice's arpeggio (45_arpeggio.md R436). -/
def stepArpeggio (cfg : Config) (v : Voice) : Voice :=
  if v.arpOn = false ∨ v.period = 0 then v
  else if v.arpCtr.toNat + 1 < v.arpSpeed.toNat then { v with arpCtr := BitVec.ofNat 8 (v.arpCtr.toNat + 1) }
  else
    let o := (arpEntryAt v.arpList v.arpPos.toNat).toInt
    let next := v.arpPos.toNat + 1
    { v with
      arpCtr := 0
      arpOut := periodOf cfg v.ft ((v.note.toNat : Int) + o)
      arpPos := if (arpEntryAt v.arpList next).toInt < 0 then 0 else BitVec.ofNat 4 next }

/-- ArpeggioTick (45_arpeggio.md R436). -/
def arpeggioTick (c : Channel) (s : State) : State :=
  s.setVoice c (stepArpeggio s.cfg (s.voice c))

/-- The period before vibrato (45_arpeggio.md R440). -/
def heldPeriod (v : Voice) : BitVec 16 :=
  if v.arpOn then v.arpOut else v.period

/-- ComposePeriod (45_arpeggio.md R440). -/
def composePeriod (c : Channel) (s : State) : State :=
  let v := s.voice c
  if v.period = 0 then s.setVoice c { v with outPeriod := 0 }
  else s.setVoice c { v with outPeriod := clampPeriod (((heldPeriod v).toNat : Int) + s.dv c) }

end Sys2Proof.Machine
end

