-- ==== Sys2Proof/Machine/RowLoad.lean ====
section
/-! DEFINITION. Row load: the effect latch, instrument resolution, note trigger, tone-portamento capture, sample offset
(spec/41_row_load.md), and the two instructions that act only there: ARP (spec/45_arpeggio.md R433) and SAMPLE_OFFSET
(R270). -/

namespace Sys2Proof.Machine

/-- The effect latch (41_row_load.md R252, 10_state.md R44). -/
def latchEffect (c : Channel) (f : CellFields) (s : State) : State :=
  s.setVoice c { s.voice c with fx := f.fx, arg := f.arg, arpidx := f.arpidx }

/-- The status bits of reserved codes (41_row_load.md R252, 30_encoding.md R160, R161). -/
def flagReserved (f : CellFields) (s : State) : State :=
  flagIf (decide (f.fx = s.cfg.codes.extra) && s.cfg.codes.isReservedSub (argX f.arg)) .rsvdExtra
    (flagIf (s.cfg.codes.isReserved f.fx) .rsvdFx s)

/-- ResolveInstrument (41_row_load.md R253). The volume goes through the clamp that 42_tick_gated_effects.md R304 puts before
every write of V.volume; a descriptor volume in 20_memory.md R108's range 0..64 is loaded as it is (log entry 20). -/
def resolveInstrument (c : Channel) (inst : BitVec 6) (s : State) : State :=
  if inst = 0 then s
  else
    match s.song.instrumentAt inst.toNat with
    | none => flag .oobRead s
    | some i => s.setVoice c { s.voice c with inst := inst, volume := clampVolume i.volume.toNat, ft := i.finetune }

/-- fx in {TONE_PORTA, TONE_PORTA_VSLIDE} (41_row_load.md R252). -/
def isTonePorta (m : EffectCodeMap) (fx : Code) : Bool :=
  decide (fx = m.tonePorta) || decide (fx = m.tonePortaVslide)

/-- PortaCapture (41_row_load.md R258). -/
def portaCapture (c : Channel) (note : BitVec 6) (s : State) : State :=
  let v := s.voice c
  s.setVoice c { v with portaTarget := periodOf s.cfg v.ft note.toNat, note := note }

/-- ArmEnvelope (41_row_load.md R263). -/
def armEnvelope (i : Instrument) (y : Synth) : Synth :=
  { y with
    svol := clampSynthVolume i.adsrStart.toNat
    add := i.adsrAdd
    endLevel := i.adsrEnd
    sub := i.adsrSub
    env := .add }

/-- The mixer regions of a sample instrument (41_row_load.md R261): byte offsets and lengths, a word being 2 bytes. -/
def sampleRegions (cfg : Config) (wave : Byte) (b : SampleBody) (m : Mixer) : Mixer :=
  let valid := decide (cfg.loopValidMinWords ≤ b.loopLen.toNat)
  { m with
    curWave := wave
    curOff := BitVec.ofNat 32 (2 * b.start.toNat)
    curLen := BitVec.ofNat 32 (2 * b.len.toNat)
    loopWave := wave
    loopOff := BitVec.ofNat 32 (2 * b.start.toNat + 2 * b.loopStart.toNat)
    loopLen := BitVec.ofNat 32 (2 * b.loopLen.toNat)
    loopValid := valid
    active := decide (0 < b.len.toNat) || valid }

/-- TriggerSample (41_row_load.md R261). -/
def triggerSample (c : Channel) (i : Instrument) (b : SampleBody) (s : State) : State :=
  let t := s.setMixer c (sampleRegions s.cfg i.wave b (s.mixer c))
  if s.cfg.adsrOnSamples then t.setSynth c (armEnvelope i (t.synth c))
  else t.setSynth c { t.synth c with svol := 127, env := .done }

/-- The initial loop mode of a synth instrument (20_memory.md R108, 41_row_load.md R262): control 3 is NORMAL. -/
def loopModeOf (ctrl : BitVec 2) : LoopMode :=
  if ctrl = 1 then .backward else if ctrl = 2 then .pingpong else .normal

/-- The wavetable and instrument-vibrato registers TriggerSynth loads (41_row_load.md R262). -/
def synthRegisters (wave : Byte) (b : SynthBody) (y : Synth) : Synth :=
  { y with
    wave := wave
    wlen := BitVec.ofNat 17 (2 * b.waveLen.toNat)
    widx := 0
    wdir := false
    wctr := 0
    wlStart := b.wlStart
    wlLen := b.wlLen
    wmode := loopModeOf b.wlCtrl
    wspeed := b.wlSpeed
    vdelay := b.vibDelay
    vspeed := b.vibSpeed
    vdepth := b.vibDepth
    vwave := b.vibWave
    vpos := 0
    vsign := false }

/-- The mixer regions of a synth instrument: one wave, looping (41_row_load.md R262). -/
def synthRegions (wave : Byte) (b : SynthBody) (m : Mixer) : Mixer :=
  let len := BitVec.ofNat 32 (2 * b.waveLen.toNat)
  { m with
    curWave := wave
    curOff := 0
    curLen := len
    loopWave := wave
    loopOff := 0
    loopLen := len
    loopValid := decide (0 < b.waveLen.toNat)
    active := decide (0 < b.waveLen.toNat) }

/-- TriggerSynth (41_row_load.md R262). -/
def triggerSynth (c : Channel) (i : Instrument) (b : SynthBody) (s : State) : State :=
  (s.setSynth c (armEnvelope i (synthRegisters i.wave b (s.synth c)))).setMixer c
    (synthRegions i.wave b (s.mixer c))

/-- The part of Trigger before the instrument (41_row_load.md R260): pitch, vibrato and arpeggio cursors, phase. -/
def triggerPitch (c : Channel) (s : State) : State :=
  let v := s.voice c
  let p := periodOf s.cfg v.ft v.note.toNat
  (s.setVoice c { v with
    period := p
    vibPos := 0
    vibSign := false
    arpPos := 0
    arpCtr := 0
    arpOut := p }).setMixer c { s.mixer c with phase := 0 }

/-- `M[c].active <- 0` (41_row_load.md R254, R260). -/
def silence (c : Channel) (s : State) : State :=
  s.setMixer c { s.mixer c with active := false }

/-- The instrument part of Trigger (41_row_load.md R260). A stored number past NUM_INSTR (no run reaches one) is an ignored
reference that sets OOB_READ (20_memory.md R116, log entry 10). -/
def triggerInstrument (c : Channel) (s : State) : State :=
  if (s.voice c).inst = 0 then silence c s
  else
    match s.song.instrumentAt (s.voice c).inst.toNat with
    | none => flag .oobRead (silence c s)
    | some i =>
      match i.body with
      | .sample b => triggerSample c i b (s.setVoice c { s.voice c with isSynth := false })
      | .synth b => triggerSynth c i b (s.setVoice c { s.voice c with isSynth := true })

/-- Trigger (41_row_load.md R260). -/
def trigger (c : Channel) (s : State) : State :=
  triggerInstrument c (triggerPitch c s)

/-- SampleOffset on the mixer region (41_row_load.md R270). -/
def offsetRegion (arg : Byte) (m : Mixer) : Mixer :=
  if pageOffset arg < m.curLen.toNat then
    { m with
      curOff := BitVec.ofNat 32 (m.curOff.toNat + pageOffset arg)
      curLen := BitVec.ofNat 32 (m.curLen.toNat - pageOffset arg) }
  else { m with curOff := BitVec.ofNat 32 (m.curOff.toNat + m.curLen.toNat), curLen := 0 }

/-- SampleOffset (41_row_load.md R270): no effect on a synth voice. -/
def sampleOffset (c : Channel) (arg : Byte) (s : State) : State :=
  if (s.voice c).isSynth then s else s.setMixer c (offsetRegion arg (s.mixer c))

/-- The cell's note is a tone-portamento capture, not a trigger (41_row_load.md R252, R258): same instrument, and the voice
has one. `prev` is V.inst before the cell. -/
def capturesPorta (m : EffectCodeMap) (f : CellFields) (prev : BitVec 6) : Bool :=
  isTonePorta m f.fx && (decide (f.inst = 0) || decide (f.inst = prev)) && decide (prev ≠ 0)

/-- The note trigger of RowLoad with what follows it: R252's else branch, R259's target, R270's offset. -/
def triggerNote (c : Channel) (f : CellFields) (s : State) : State :=
  let t := trigger c (s.setVoice c { s.voice c with note := f.note })
  let u := if isTonePorta s.cfg.codes f.fx
    then t.setVoice c { t.voice c with portaTarget := (t.voice c).period } else t
  if f.fx = s.cfg.codes.sampleOffset then sampleOffset c f.arg u else u

/-- What RowLoad does with the note (41_row_load.md R252, R255). -/
def loadNote (c : Channel) (f : CellFields) (prev : BitVec 6) (s : State) : State :=
  if f.note = 0 then s
  else if capturesPorta s.cfg.codes f prev then portaCapture c f.note s
  else triggerNote c f s

/-- RowLoad (41_row_load.md R252). -/
def rowLoad (c : Channel) (f : CellFields) (s : State) : State :=
  let prev := (s.voice c).inst
  arpSetup c (loadNote c f prev (resolveInstrument c f.inst (flagReserved f (latchEffect c f s))))

/-- The cell of the running channel on this tick: RowLoad on the tick that loads the row, nothing more otherwise
(40_sequencer.md R210, log entry 1). -/
def loadCell (f : CellFields) (s : State) : State :=
  if s.seq.first then rowLoad s.ch f s else s

/-- Run a cell: its row load when the row is being loaded, then its Dispatch (30_encoding.md R152). -/
def runCell (f : CellFields) (dispatch : State → State) (s : State) : Result :=
  .next (dispatch (loadCell f s))

/-- Pass (a): the handler runs only when S.tick != 0 (30_encoding.md R152, 42_tick_gated_effects.md R300). -/
def passA (handler : State → State) (s : State) : State :=
  if s.seq.tick = 0 then s else handler s

/-- Pass (b): the handler runs on every tick (43_every_tick_effects.md R350). -/
def passB (handler : State → State) (s : State) : State :=
  handler s

/-- A first-tick handler of pass (b) (40_sequencer.md R213, 43_every_tick_effects.md R351). -/
def onFirst (handler : State → State) (s : State) : State :=
  if s.seq.first then handler s else s

/-- ARP (45_arpeggio.md R433): its setup is in RowLoad, its engine in `arpeggioTick`; Dispatch does nothing (R152). -/
def execArp (h : Head) (x y : Nibble) (s : State) : Result :=
  runCell ((Instr.arp h x y).fields s.cfg.codes) (fun t => t) s

/-- SAMPLE_OFFSET (41_row_load.md R270): acts in RowLoad on a note that triggered; Dispatch does nothing (R152). -/
def execSampleOffset (h : Head) (arg : Byte) (s : State) : Result :=
  runCell ((Instr.sampleOffset h arg).fields s.cfg.codes) (fun t => t) s

/-- A cell with a reserved effect code (30_encoding.md R160): latched, its note and instrument act, RSVD_FX is set,
Dispatch does nothing. -/
def runReserved (f : CellFields) (s : State) : Result :=
  runCell f (fun t => t) s

end Sys2Proof.Machine
end

