-- ==== Sys2Proof/Machine/TickGated.lean ====
section
/-! DEFINITION. The tick-gated effects, pass (a) (spec/42_tick_gated_effects.md). -/

namespace Sys2Proof.Machine

/-- VolSlide (42_tick_gated_effects.md R305): up has priority. -/
def volSlide (c : Channel) (x y : Nibble) (s : State) : State :=
  let v := s.voice c
  if x ≠ 0 then s.setVoice c { v with volume := clampVolume ((v.volume.toNat : Int) + x.toNat) }
  else s.setVoice c { v with volume := clampVolume ((v.volume.toNat : Int) - y.toNat) }

/-- The period one portamento step away (42_tick_gated_effects.md R306). -/
def portaStepPeriod (v : Voice) : BitVec 16 :=
  let p : Int := v.period.toNat
  let t : Int := v.portaTarget.toNat
  let sp : Int := v.portaSpeed.toNat
  if v.period = 0 ∨ v.portaTarget = 0 then v.period
  else if p < t then BitVec.ofInt 16 (min (p + sp) t)
  else if t < p then BitVec.ofInt 16 (max (p - sp) t)
  else v.period

/-- TonePortaStep (42_tick_gated_effects.md R306). -/
def tonePortaStep (c : Channel) (s : State) : State :=
  s.setVoice c { s.voice c with period := portaStepPeriod (s.voice c) }

/-- VibratoStep (42_tick_gated_effects.md R307). -/
def vibratoStep (c : Channel) (s : State) : State :=
  let v := s.voice c
  let delta := vibDelta s.cfg (vibSelect v.vibAmp) v.vibPos (vibDepth v.vibAmp).toNat
  let p := v.vibPos.toNat + v.vibSpeed.toNat
  (s.setDv c (signedDelta v.vibSign delta)).setVoice c
    { v with
      vibPos := BitVec.ofNat 5 (p % 32)
      vibSign := if 32 ≤ p then !v.vibSign else v.vibSign }

/-- A handler that changes a period first tests V.period = 0, no pitch yet, and then does nothing
(42_tick_gated_effects.md R301). -/
def withPitch (c : Channel) (handler : State → State) (s : State) : State :=
  if (s.voice c).period = 0 then s else handler s

/-- Slide the base period by a signed amount (42_tick_gated_effects.md R301, R303). -/
def slidePeriod (c : Channel) (delta : Int) (s : State) : State :=
  withPitch c (fun t =>
    t.setVoice c { t.voice c with period := clampPeriod (((t.voice c).period.toNat : Int) + delta) }) s

/-- TONE_PORTA's handler (42_tick_gated_effects.md R301, R315). DEDUCED (log entry 18): R301's test comes before the speed
memory, which R315's pseudocode shows without it. -/
def tonePorta (c : Channel) (arg : Byte) (s : State) : State :=
  withPitch c (fun t =>
    tonePortaStep c (if arg ≠ 0 then t.setVoice c { t.voice c with portaSpeed := arg } else t)) s

/-- TONE_PORTA_VSLIDE's handler (42_tick_gated_effects.md R301, R325). DEDUCED (log entry 18): R301's test comes before the
volume slide, which R325's pseudocode shows without it. -/
def tonePortaVslide (c : Channel) (x y : Nibble) (s : State) : State :=
  withPitch c (fun t => volSlide c x y (tonePortaStep c t)) s

/-- VIBRATO's handler (42_tick_gated_effects.md R320). DESIGN CHOICE (log entry 18): it writes no period register (R307), so
R301 is not read as naming it, nor VIBRATO_VSLIDE. -/
def vibrato (c : Channel) (x y : Nibble) (s : State) : State :=
  let v := s.voice c
  vibratoStep c (s.setVoice c
    { v with
      vibSpeed := if x ≠ 0 then x else v.vibSpeed
      vibAmp := if y ≠ 0 then withVibDepth v.vibAmp y else v.vibAmp })

/-- SLIDE_UP (42_tick_gated_effects.md R310). -/
def execSlideUp (h : Head) (arg : Byte) (s : State) : Result :=
  runCell ((Instr.slideUp h arg).fields s.cfg.codes) (passA (slidePeriod s.ch (-(arg.toNat : Int)))) s

/-- SLIDE_DOWN (42_tick_gated_effects.md R312). -/
def execSlideDown (h : Head) (arg : Byte) (s : State) : Result :=
  runCell ((Instr.slideDown h arg).fields s.cfg.codes) (passA (slidePeriod s.ch (arg.toNat : Int))) s

/-- TONE_PORTA (42_tick_gated_effects.md R315). -/
def execTonePorta (h : Head) (arg : Byte) (s : State) : Result :=
  runCell ((Instr.tonePorta h arg).fields s.cfg.codes) (passA (tonePorta s.ch arg)) s

/-- VIBRATO (42_tick_gated_effects.md R320). -/
def execVibrato (h : Head) (x y : Nibble) (s : State) : Result :=
  runCell ((Instr.vibrato h x y).fields s.cfg.codes) (passA (vibrato s.ch x y)) s

/-- TONE_PORTA_VSLIDE (42_tick_gated_effects.md R325). -/
def execTonePortaVslide (h : Head) (x y : Nibble) (s : State) : Result :=
  runCell ((Instr.tonePortaVslide h x y).fields s.cfg.codes) (passA (tonePortaVslide s.ch x y)) s

/-- VIBRATO_VSLIDE (42_tick_gated_effects.md R327). -/
def execVibratoVslide (h : Head) (x y : Nibble) (s : State) : Result :=
  runCell ((Instr.vibratoVslide h x y).fields s.cfg.codes)
    (passA (fun t => volSlide s.ch x y (vibratoStep s.ch t))) s

/-- VOLUME_SLIDE (42_tick_gated_effects.md R330). -/
def execVolumeSlide (h : Head) (x y : Nibble) (s : State) : Result :=
  runCell ((Instr.volumeSlide h x y).fields s.cfg.codes) (passA (volSlide s.ch x y)) s

end Sys2Proof.Machine
end

