-- ==== Sys2Proof/Machine/EveryTick.lean ====
section
/-! DEFINITION. The every-tick effects, pass (b), but for the Extra family (spec/43_every_tick_effects.md). -/

namespace Sys2Proof.Machine

/-- POSITION_JUMP's handler (43_every_tick_effects.md R352). -/
def positionJump (arg : Byte) (s : State) : State :=
  s.setSeq { s.seq with jmp := true, jmpPos := arg }

/-- PATTERN_BREAK's handler (43_every_tick_effects.md R356). -/
def patternBreak (arg : Byte) (s : State) : State :=
  s.setSeq { s.seq with brk := true, brkRow := breakRow arg }

/-- SET_SPEED's handler (43_every_tick_effects.md R358). -/
def setSpeed (arg : Byte) (s : State) : State :=
  if arg = 0 then s
  else if arg.toNat ≤ 32 then s.setSeq { s.seq with speed := arg }
  else if arg.toNat ≤ 200 then
    if s.seq.tempo ≠ arg then recomputeSpt (s.setSeq { s.seq with tempo := arg }) else s
  else s

/-- SET_VOLUME's handler (43_every_tick_effects.md R354). -/
def setVolume (c : Channel) (arg : Byte) (s : State) : State :=
  s.setVoice c { s.voice c with volume := clampVolume arg.toNat }

/-- NEW_VOLUME's handler (43_every_tick_effects.md R364). -/
def newVolume (c : Channel) (arg : Byte) (s : State) : State :=
  s.setSynth c { s.synth c with svol := clampSynthVolume arg.toNat }

/-- TRACK_VOLUME's handler (43_every_tick_effects.md R374). -/
def trackVolume (c : Channel) (arg : Byte) (s : State) : State :=
  s.setVoice c { s.voice c with trackVol := clampVolume arg.toNat }

/-- WAVE_SPEED's handler (43_every_tick_effects.md R366). -/
def waveSpeed (c : Channel) (arg : Byte) (s : State) : State :=
  s.setSynth c { s.synth c with wspeed := arg }

/-- ARP_SPEED's handler (43_every_tick_effects.md R368). -/
def arpSpeed (c : Channel) (arg : Byte) (s : State) : State :=
  s.setVoice c { s.voice c with arpSpeed := if arg = 0 then 1 else arg }

/-- The mode a WAVE_MODE argument selects; m = 3 changes nothing (43_every_tick_effects.md R376). -/
def waveModeOf (arg : Byte) (old : LoopMode) : LoopMode :=
  if arg.extractLsb' 0 2 = 0#2 then .normal
  else if arg.extractLsb' 0 2 = 1#2 then .backward
  else if arg.extractLsb' 0 2 = 2#2 then .pingpong
  else old

/-- WAVE_MODE's handler (43_every_tick_effects.md R376). -/
def waveMode (c : Channel) (arg : Byte) (s : State) : State :=
  s.setSynth c { s.synth c with wmode := waveModeOf arg (s.synth c).wmode }

/-- POSITION_JUMP (43_every_tick_effects.md R352). -/
def execPositionJump (h : Head) (arg : Byte) (s : State) : Result :=
  runCell ((Instr.positionJump h arg).fields s.cfg.codes) (passB (onFirst (positionJump arg))) s

/-- SET_VOLUME (43_every_tick_effects.md R354). -/
def execSetVolume (h : Head) (arg : Byte) (s : State) : Result :=
  runCell ((Instr.setVolume h arg).fields s.cfg.codes) (passB (setVolume s.ch arg)) s

/-- PATTERN_BREAK (43_every_tick_effects.md R356). -/
def execPatternBreak (h : Head) (arg : Byte) (s : State) : Result :=
  runCell ((Instr.patternBreak h arg).fields s.cfg.codes) (passB (onFirst (patternBreak arg))) s

/-- SET_SPEED (43_every_tick_effects.md R358). -/
def execSetSpeed (h : Head) (arg : Byte) (s : State) : Result :=
  runCell ((Instr.setSpeed h arg).fields s.cfg.codes) (passB (setSpeed arg)) s

/-- NEW_VOLUME (43_every_tick_effects.md R364). -/
def execNewVolume (h : Head) (arg : Byte) (s : State) : Result :=
  runCell ((Instr.newVolume h arg).fields s.cfg.codes) (passB (onFirst (newVolume s.ch arg))) s

/-- WAVE_SPEED (43_every_tick_effects.md R366). -/
def execWaveSpeed (h : Head) (arg : Byte) (s : State) : Result :=
  runCell ((Instr.waveSpeed h arg).fields s.cfg.codes) (passB (waveSpeed s.ch arg)) s

/-- ARP_SPEED (43_every_tick_effects.md R368). -/
def execArpSpeed (h : Head) (arg : Byte) (s : State) : Result :=
  runCell ((Instr.arpSpeed h arg).fields s.cfg.codes) (passB (arpSpeed s.ch arg)) s

/-- FINE_SLIDE_UP (43_every_tick_effects.md R370). -/
def execFineSlideUp (h : Head) (arg : Byte) (s : State) : Result :=
  runCell ((Instr.fineSlideUp h arg).fields s.cfg.codes)
    (passB (onFirst (slidePeriod s.ch (-(arg.toNat : Int))))) s

/-- FINE_SLIDE_DOWN (43_every_tick_effects.md R372). -/
def execFineSlideDown (h : Head) (arg : Byte) (s : State) : Result :=
  runCell ((Instr.fineSlideDown h arg).fields s.cfg.codes)
    (passB (onFirst (slidePeriod s.ch (arg.toNat : Int)))) s

/-- TRACK_VOLUME (43_every_tick_effects.md R374). -/
def execTrackVolume (h : Head) (arg : Byte) (s : State) : Result :=
  runCell ((Instr.trackVolume h arg).fields s.cfg.codes) (passB (trackVolume s.ch arg)) s

/-- WAVE_MODE (43_every_tick_effects.md R376). -/
def execWaveMode (h : Head) (arg : Byte) (s : State) : Result :=
  runCell ((Instr.waveMode h arg).fields s.cfg.codes) (passB (waveMode s.ch arg)) s

/-- EXT_EVENT (43_every_tick_effects.md R378): a no-op; the latch is the only trace. -/
def execExtEvent (h : Head) (arg : Byte) (s : State) : Result :=
  runCell ((Instr.extEvent h arg).fields s.cfg.codes) (passB (fun t => t)) s

end Sys2Proof.Machine
end

