-- ==== Sys2Proof/Machine/Extra.lean ====
section
/-! DEFINITION. The Extra sub-effects (spec/44_extra_effects.md). -/

namespace Sys2Proof.Machine

/-- FILTER's handler: inert (44_extra_effects.md R402). -/
def filterEffect (s : State) : State := s

/-- VIB_WAVE's handler (44_extra_effects.md R404). -/
def vibWave (c : Channel) (y : Nibble) (s : State) : State :=
  s.setVoice c { s.voice c with vibAmp := withVibSelect (s.voice c).vibAmp (y.extractLsb' 0 2) }

/-- PATTERN_LOOP on the sequencer (44_extra_effects.md R406). -/
def loopCounter (y : Nibble) (q : Seq) : Seq :=
  if y = 0 then { q with loopRow := q.curRow }
  else if q.loopCnt = loopExhausted then q
  else if q.loopCnt = 0 then { q with loopCnt := y.setWidth 8, loopFlag := true }
  else if q.loopCnt = 1 then { q with loopCnt := loopExhausted }
  else { q with loopCnt := q.loopCnt - 1, loopFlag := true }

/-- PATTERN_LOOP's handler (44_extra_effects.md R406). -/
def patternLoop (y : Nibble) (s : State) : State :=
  s.setSeq (loopCounter y s.seq)

/-- PATTERN_DELAY's handler (44_extra_effects.md R410). -/
def patternDelay (y : Nibble) (s : State) : State :=
  if y = 0 then s else s.setSeq { s.seq with delay := BitVec.ofInt 8 ((y.toNat : Int) - 1) }

/-- EXTRA's dispatch on the sub-code (44_extra_effects.md R400); reserved sub-codes do nothing (30_encoding.md R161). -/
def extraEffect (c : Channel) (x y : Nibble) (s : State) : State :=
  if x = s.cfg.codes.filter then filterEffect s
  else if x = s.cfg.codes.vibWave then vibWave c y s
  else if x = s.cfg.codes.patternLoop then onFirst (patternLoop y) s
  else if x = s.cfg.codes.patternDelay then onFirst (patternDelay y) s
  else s

/-- EXTRA (44_extra_effects.md R400). -/
def execExtra (h : Head) (x y : Nibble) (s : State) : Result :=
  runCell ((Instr.extra h x y).fields s.cfg.codes) (passB (extraEffect s.ch x y)) s

/-- FILTER, E0y (44_extra_effects.md R402). -/
def execFilter (h : Head) (y : Nibble) (s : State) : Result :=
  runCell ((Instr.filter h y).fields s.cfg.codes) (passB filterEffect) s

/-- VIB_WAVE, E4y (44_extra_effects.md R404). -/
def execVibWave (h : Head) (y : Nibble) (s : State) : Result :=
  runCell ((Instr.vibWave h y).fields s.cfg.codes) (passB (vibWave s.ch y)) s

/-- PATTERN_LOOP, E6y (44_extra_effects.md R406). -/
def execPatternLoop (h : Head) (y : Nibble) (s : State) : Result :=
  runCell ((Instr.patternLoop h y).fields s.cfg.codes) (passB (onFirst (patternLoop y))) s

/-- PATTERN_DELAY, EEy (44_extra_effects.md R410). -/
def execPatternDelay (h : Head) (y : Nibble) (s : State) : Result :=
  runCell ((Instr.patternDelay h y).fields s.cfg.codes) (passB (onFirst (patternDelay y))) s

end Sys2Proof.Machine
end

