-- ==== Sys2Proof/Machine/Dispatch.lean ====
section
/-! DEFINITION. The meaning of each instruction, one arm per constructor of Instr. -/

namespace Sys2Proof.Machine

/-- The cell i on the running channel `s.ch` in the current tick (log entry 1): its row load on the tick that loads the
row, then its Dispatch. -/
def exec (i : Instr) (s : State) : Host.Outcome State Fault Refusal :=
  match i with
  | .arp h x y => Sys2Proof.Machine.execArp h x y s
  | .slideUp h arg => Sys2Proof.Machine.execSlideUp h arg s
  | .slideDown h arg => Sys2Proof.Machine.execSlideDown h arg s
  | .tonePorta h arg => Sys2Proof.Machine.execTonePorta h arg s
  | .vibrato h x y => Sys2Proof.Machine.execVibrato h x y s
  | .tonePortaVslide h x y => Sys2Proof.Machine.execTonePortaVslide h x y s
  | .vibratoVslide h x y => Sys2Proof.Machine.execVibratoVslide h x y s
  | .sampleOffset h arg => Sys2Proof.Machine.execSampleOffset h arg s
  | .volumeSlide h x y => Sys2Proof.Machine.execVolumeSlide h x y s
  | .positionJump h arg => Sys2Proof.Machine.execPositionJump h arg s
  | .setVolume h arg => Sys2Proof.Machine.execSetVolume h arg s
  | .patternBreak h arg => Sys2Proof.Machine.execPatternBreak h arg s
  | .extra h x y => Sys2Proof.Machine.execExtra h x y s
  | .setSpeed h arg => Sys2Proof.Machine.execSetSpeed h arg s
  | .newVolume h arg => Sys2Proof.Machine.execNewVolume h arg s
  | .waveSpeed h arg => Sys2Proof.Machine.execWaveSpeed h arg s
  | .arpSpeed h arg => Sys2Proof.Machine.execArpSpeed h arg s
  | .fineSlideUp h arg => Sys2Proof.Machine.execFineSlideUp h arg s
  | .fineSlideDown h arg => Sys2Proof.Machine.execFineSlideDown h arg s
  | .trackVolume h arg => Sys2Proof.Machine.execTrackVolume h arg s
  | .waveMode h arg => Sys2Proof.Machine.execWaveMode h arg s
  | .extEvent h arg => Sys2Proof.Machine.execExtEvent h arg s
  | .filter h y => Sys2Proof.Machine.execFilter h y s
  | .vibWave h y => Sys2Proof.Machine.execVibWave h y s
  | .patternLoop h y => Sys2Proof.Machine.execPatternLoop h y s
  | .patternDelay h y => Sys2Proof.Machine.execPatternDelay h y s

end Sys2Proof.Machine
end

