-- ==== Sys2Proof/Machine/MixEngine.lean ====
section
/-! DEFINITION. The mixer: per-tick parameters, the per-frame channel step, looping, gain, pan, scope and the frame mix
(spec/47_mixer.md). -/

namespace Sys2Proof.Machine

/-- The synth-volume shift of the variant (47_mixer.md R545). -/
def svolShift (cfg : Config) : Variant → Nat
  | .aon4 => cfg.svolShift4
  | .aon8 => cfg.svolShift8

/-- Gain(c) (47_mixer.md R545). -/
def gainOf (cfg : Config) (var : Variant) (v : Voice) (y : Synth) : Rat :=
  ((v.volume.toNat * (y.svol.toNat >>> svolShift cfg var) * v.trackVol.toNat : Nat) : Rat) / (64 * 128 * 64)

/-- The phase increment in bytes per output frame (47_mixer.md R520). -/
def incOf (cfg : Config) (sampleRate : BitVec 32) (outPeriod : BitVec 16) : Rat :=
  if outPeriod = 0 then 0 else (cfg.palClock : Rat) / ((outPeriod.toNat * sampleRate.toNat : Nat) : Rat)

/-- MixerUpdate (47_mixer.md R520). -/
def mixerUpdate (c : Channel) (s : State) : State :=
  s.setMixer c { s.mixer c with
    inc := incOf s.cfg s.cr.sampleRate (s.voice c).outPeriod
    gain := gainOf s.cfg s.song.variant (s.voice c) (s.synth c) }

/-- PanUpdate (47_mixer.md R549). -/
def panUpdate (s : State) : State :=
  forChannels (fun c t => t.setMixer c { t.mixer c with
    panL := (panGains t.song.variant t.cr.stereoMix c).1
    panR := (panGains t.song.variant t.cr.stereoMix c).2 }) s

/-- The phase is at or past the end of the current region (47_mixer.md R530). -/
def regionExhausted (m : Mixer) : Bool :=
  decide ((m.curLen.toNat : Rat) ≤ m.phase)

/-- RegionEnd on a mixer channel (47_mixer.md R533). -/
def regionEnd (m : Mixer) : Mixer :=
  if m.loopValid then
    let p := m.phase - (m.curLen.toNat : Rat)
    { m with
      curWave := m.loopWave
      curOff := m.loopOff
      curLen := m.loopLen
      phase := if (m.loopLen.toNat : Rat) ≤ p then 0 else p }
  else { m with active := false }

/-- The region test at the start of MixChannel (47_mixer.md R530). -/
def settleRegion (m : Mixer) : Mixer :=
  if m.active && regionExhausted m then regionEnd m else m

/-- The waveform byte address MixChannel reads (47_mixer.md R530). -/
def sampleAddr (m : Mixer) : Nat :=
  m.curOff.toNat + m.phase.floor.toNat

/-- MixChannel (47_mixer.md R530): the state after it and the channel's output. -/
def mixChannel (c : Channel) (s : State) : State × Rat :=
  let m := settleRegion (s.mixer c)
  if m.active then
    let r := waveRead s m.curWave (sampleAddr m)
    (flagIf r.2 .oobRead (s.setMixer c { m with phase := m.phase + m.inc }), (r.1 : Rat) / 128 * m.gain)
  else (s.setMixer c m, 0)

/-- ScopeWrite (47_mixer.md R556). -/
def scopeWrite (c : Channel) (o : Rat) (s : State) : State :=
  let sc := s.scope c
  s.setScope c { ring := sc.ring.set sc.wp o, wp := (sc.wp + 1) % s.cfg.scopeLen }

/-- One channel of MixFrame's loop (47_mixer.md R552). -/
def mixInto (acc : State × Frame) (c : Channel) : State × Frame :=
  let r := mixChannel c acc.1
  let t := if acc.1.cr.scopeEn then scopeWrite c r.2 r.1 else r.1
  (t, (acc.2.1 + r.2 * (t.mixer c).panL, acc.2.2 + r.2 * (t.mixer c).panR))

/-- MixFrame (47_mixer.md R552): the state after it and the frame (L, R), neither clipped nor divided. -/
def mixFrame (s : State) : State × Frame :=
  s.channels.foldl mixInto (s, (0, 0))

/-- Append a frame to the output stream (47_mixer.md R553). -/
def emit (f : Frame) (s : State) : State :=
  { s with out := s.out ++ [f] }

/-- The mixing half of a frame: mix and emit (40_sequencer.md R202). -/
def mixAndEmit (s : State) : State :=
  emit (mixFrame s).2 (mixFrame s).1

end Sys2Proof.Machine
end

