-- ==== Sys2Proof/Machine/SynthEngine.lean ====
section
/-! DEFINITION. The synth engine: envelope, wavetable cursor, instrument vibrato (spec/46_synth_engine.md). -/

namespace Sys2Proof.Machine

/-- EnvelopeStep on a synth bank (46_synth_engine.md R462). -/
def envelope (y : Synth) : Synth :=
  match y.env with
  | .add =>
    if y.add = 0 then { y with svol := 127, env := .done }
    else
      let v := min (y.svol.toNat + y.add.toNat) svolMax
      { y with svol := BitVec.ofNat 7 v, env := if v = svolMax then .sub else .add }
  | .sub =>
    if y.svol.toNat ≤ y.endLevel.toNat then { y with env := .done }
    else
      let v := max ((y.svol.toNat : Int) - y.sub.toNat) y.endLevel.toNat
      { y with svol := BitVec.ofInt 7 v, env := if v = y.endLevel.toNat then .done else .sub }
  | .done => y

/-- EnvelopeStep (46_synth_engine.md R462). -/
def envelopeStep (c : Channel) (s : State) : State :=
  s.setSynth c (envelope (s.synth c))

/-- The loop window's first wave (46_synth_engine.md R480). -/
def windowLo (y : Synth) : Int := y.wlStart.toNat

/-- The loop window's last wave (46_synth_engine.md R480). -/
def windowHi (y : Synth) : Int := (y.wlStart.toNat : Int) + y.wlLen.toNat - 1

/-- The direction and the wave number after one cursor step (46_synth_engine.md R480). -/
def cursorStep (y : Synth) : Bool × Int :=
  let n : Int := if y.wdir then (y.widx.toNat : Int) - 1 else (y.widx.toNat : Int) + 1
  if windowHi y < n ∨ n < windowLo y then
    match y.wmode with
    | .normal => (y.wdir, windowLo y)
    | .backward => (true, windowHi y)
    | .pingpong => (!y.wdir, y.widx.toNat)
  else (y.wdir, n)

/-- What Y.widx holds after a wave number is written to it: the number where the 8 bits hold it, else a free value
(10_state.md R62 gives 8 bits and 46_synth_engine.md R480 no rule for more; log entry 8). -/
def storeCursor (n : Int) : Byte :=
  if n < 256 then BitVec.ofInt 8 n else cursorOverflow n.toNat

/-- The loop region of the wave under the cursor (46_synth_engine.md R480, last three lines). -/
def waveRegion (y : Synth) (m : Mixer) : Mixer :=
  { m with
    loopWave := y.wave
    loopOff := BitVec.ofNat 32 (y.widx.toNat * y.wlen.toNat)
    loopLen := y.wlen.setWidth 32 }

/-- Move the cursor and point the mixer's loop region at its wave (46_synth_engine.md R480). -/
def moveCursor (c : Channel) (s : State) : State :=
  let y := s.synth c
  let y1 := { y with wdir := (cursorStep y).1, widx := storeCursor (cursorStep y).2 }
  (s.setSynth c y1).setMixer c (waveRegion y1 (s.mixer c))

/-- WaveStep (46_synth_engine.md R480). -/
def waveStep (c : Channel) (s : State) : State :=
  let y := s.synth c
  if y.wspeed = 0 then s
  else if y.wctr.toNat + 1 < y.wspeed.toNat then s.setSynth c { y with wctr := BitVec.ofNat 8 (y.wctr.toNat + 1) }
  else if y.wlLen = 0 then s.setSynth c { y with wctr := 0 }
  else moveCursor c (s.setSynth c { y with wctr := 0 })

/-- InstrVibrato (46_synth_engine.md R490). -/
def instrVibrato (c : Channel) (s : State) : State :=
  let y := s.synth c
  let v := s.voice c
  if y.vdelay ≠ 0 then s.setSynth c { y with vdelay := y.vdelay - 1 }
  else if v.outPeriod = 0 then s
  else
    let d := signedDelta y.vsign (vibDelta s.cfg y.vwave y.vpos y.vdepth.toNat)
    let p := y.vpos.toNat + y.vspeed.toNat
    (s.setVoice c { v with outPeriod := clampPeriod ((v.outPeriod.toNat : Int) + d) }).setSynth c
      { y with
        vpos := BitVec.ofNat 5 (p % 32)
        vsign := y.vsign ^^ decide (p / 32 % 2 = 1) }

/-- SynthTick (46_synth_engine.md R460). -/
def synthTick (c : Channel) (s : State) : State :=
  if (s.voice c).isSynth then instrVibrato c (waveStep c (envelopeStep c s))
  else if s.cfg.adsrOnSamples then envelopeStep c s
  else s

end Sys2Proof.Machine
end

