-- ==== Sys2Proof/Machine/Frame.lean ====
section
/-! DEFINITION. The fetch of cells and the frame, tick and row loops around them (spec/40_sequencer.md R202, R204, R206,
R210). -/

namespace Sys2Proof.Machine

/-- Run what the decoder answered: the instruction's meaning, or a reserved cell as 30_encoding.md R160 says. A cell is
never truncated (20_memory.md R122). -/
def runDecoded (d : Decoded) (s : State) : Result :=
  match d with
  | .instr i => exec i s
  | .reservedEffect f => runReserved f s
  | .truncated => .next s

/-- The row tick's fetch for the running channel: Cell(pat, row, ch); outside PAT the all-zero cell with OOB_READ
(40_sequencer.md R210, 20_memory.md R116). -/
def fetchCell (pat : Byte) (row : BitVec 6) (s : State) : CellWord × Bool :=
  match s.song.cellAt pat.toNat row.toNat s.ch.val with
  | some w => (w, false)
  | none => (0, true)

/-- RowLoad(c, Cell(pat, row, c)) and Dispatch(c) for the running channel (40_sequencer.md R210 step 2). -/
def runRowCell (pat : Byte) (row : BitVec 6) (s : State) : Result :=
  let w := fetchCell pat row s
  runDecoded (decode s.cfg.codes w.1) (flagIf w.2 .oobRead s)

/-- The cell the effect latch of the running channel holds (10_state.md R44): note and instrument are not latched, and
nothing reads them after the row load. -/
def latchedFields (s : State) : CellFields :=
  let v := s.voice s.ch
  { arpidx := v.arpidx, note := 0, inst := 0, fx := v.fx, arg := v.arg }

/-- Dispatch(c) from the latch for the running channel (30_encoding.md R152, 40_sequencer.md R206). -/
def runLatchedCell (s : State) : Result :=
  runDecoded (classify s.cfg.codes (latchedFields s)) s

/-- The row's cells, all channels in order (40_sequencer.md R210 step 2). -/
def runRow (pat : Byte) (row : BitVec 6) (s : State) : Result :=
  runChannels (runRowCell pat row) s.channels s

/-- The latched cells, all channels in order (40_sequencer.md R204, R206). -/
def runLatched (s : State) : Result :=
  runChannels runLatchedCell s.channels s

/-- RowAdvance (40_sequencer.md R210). -/
def rowAdvance (s : State) : Result :=
  if delayArmed s.seq then runLatched (stallRow s)
  else
    let p := posList s s.seq.pos
    andThen (runRow p.1 s.seq.row (flagIf p.2 .oobRead (beginRow s))) (fun t => .next (endRow t))

/-- The start of a tick: S.first and every dv[c] to 0 (40_sequencer.md R204). -/
def beginTick (s : State) : State :=
  forChannels (fun c t => t.setDv c 0) (s.setSeq { s.seq with first := false })

/-- This tick is a row tick: S.tick + 1 >= S.speed (40_sequencer.md R204). -/
def rowTickDue (q : Seq) : Bool :=
  decide (q.speed.toNat ≤ q.tick.toNat + 1)

/-- The phases of a tick after Dispatch, each over all channels (40_sequencer.md R204, 70_reset_and_hazards.md R643). -/
def tickPhases (s : State) : State :=
  forChannels mixerUpdate (forChannels synthTick (forChannels composePeriod (forChannels arpeggioTick s)))

/-- The cells of a tick: the row advance on a row tick, the latched cells otherwise (40_sequencer.md R204). -/
def tickCells (s : State) : Result :=
  if rowTickDue s.seq then rowAdvance (s.setSeq { s.seq with tick := 0 })
  else runLatched (s.setSeq { s.seq with tick := BitVec.ofNat 8 (s.seq.tick.toNat + 1) })

/-- Tick (40_sequencer.md R204). -/
def tick (s : State) : Result :=
  andThen (tickCells (beginTick s)) (fun t => .next (tickPhases t))

/-- S.acc <= 0: a tick is due (40_sequencer.md R202). -/
def tickDue (q : Seq) : Bool :=
  decide (q.acc.toInt ≤ 0)

/-- `S.acc <- S.acc + S.spt` (40_sequencer.md R202). -/
def reloadAcc (s : State) : State :=
  s.setSeq { s.seq with acc := BitVec.ofInt 32 (s.seq.acc.toInt + s.seq.spt.toNat) }

/-- `S.acc <- S.acc - 1` (40_sequencer.md R202). -/
def countFrame (s : State) : State :=
  s.setSeq { s.seq with acc := BitVec.ofInt 32 (s.seq.acc.toInt - 1) }

/-- Frame (40_sequencer.md R202): at most one tick, then one mixed frame. -/
def frame (s : State) : Result :=
  andThen (if tickDue s.seq then tick (reloadAcc s) else .next s) (fun t => .next (mixAndEmit (countFrame t)))

/-- One step: a frame of the song held, DECODE(1); refused while no song is held (60_exceptions.md R595, R596, R605). -/
def stepFrame (s : State) : Result :=
  if s.loaded then frame s else .refused .noSong

/-- Place a cell word where the next step fetches channel 0's cell, and make that step a row tick (log entry 4): a song is
held, the frame countdown is out, the tick is the row's last, no pattern delay is armed, and the cell of (PosList(S.pos),
S.row, 0) is the word. What already holds is left as it is. -/
def placeFetchWord (s : State) (w : CellWord) : State :=
  let pat := (posList s s.seq.pos).1.toNat
  let song := { s.song with numPatterns := max s.song.numPatterns (pat + 1) }
  { s with
    loaded := true
    song := song.setCell pat s.seq.row.toNat 0 w
    seq := { s.seq with
      acc := if tickDue s.seq then s.seq.acc else 0
      tick := if rowTickDue s.seq then s.seq.tick else BitVec.ofNat 8 (s.seq.speed.toNat - 1)
      delay := if delayArmed s.seq then BitVec.ofInt 8 (-1) else s.seq.delay } }

end Sys2Proof.Machine
end

