-- ==== Sys2Proof/Machine/Step.lean ====
section
/-! DEFINITION. One step of the machine, and where a step fetches. -/

namespace Sys2Proof.Machine

/-- One step is one output frame (40_sequencer.md R202, 60_exceptions.md R605, log entry 1). -/
def step (s : State) : Host.Outcome State Fault Refusal :=
  stepFrame s

/-- s with the table word (its low nbits bits, the rest 0) stored where step fetches its next instruction: the cell of
channel 0 of the row the next frame loads (log entry 4). -/
def State.withFetchWord (s : State) (nbits w : Nat) : State :=
  placeFetchWord s (BitVec.ofNat 32 (w % 2 ^ nbits))

end Sys2Proof.Machine
end

