-- ==== Sys2Proof/Machine/HostOps.lean ====
section
/-! DEFINITION. The host operations and the register map (spec/60_exceptions.md R582, R583, R595 to R597,
spec/10_state.md R80, spec/70_reset_and_hazards.md R620). They act between frames, one at a time (spec/20_memory.md R131). -/

namespace Sys2Proof.Machine

/-- The load-time failures (60_exceptions.md R582). -/
inductive LoadFailure where
  | badMagic
  | missingChunk
  | chunkOverrun
  | badVariant
  | bounds
  | alloc
deriving DecidableEq, Repr

/-- The failure codes (60_exceptions.md R582). -/
def LoadFailure.code : LoadFailure → Nat
  | .badMagic => 1
  | .missingChunk => 2
  | .chunkOverrun => 3
  | .badVariant => 4
  | .bounds => 5
  | .alloc => 6

/-- What the external loader delivers from a container (00_scope.md R7, log entry 13): a song, or a failure. -/
inductive LoadResult where
  | song (g : Song)
  | failed (e : LoadFailure)
deriving DecidableEq, Repr

/-- The host operations (60_exceptions.md R595). -/
inductive HostOp where
  | create (r : LoadResult)
  | setSampleRate (r : BitVec 32)
  | start (subsong : Nat)
  | decode (n : Nat)
  | read (offset : Nat)
  | write (offset : Nat) (v : BitVec 32)
  | cell (pat row ch : Nat)
  | scope (ch : Nat)
  | metadata
deriving DecidableEq, Repr

/-- The results of the host operations (60_exceptions.md R583, R595, R596). -/
inductive HostReply where
  | done
  | failure (e : LoadFailure)
  | refused
  | frames (produced : Nat) (finished : Bool)
  | value (v : BitVec 32)
  | notFound
  | ring (entries : List Rat) (wp : Nat)
  | counts (patterns instruments : Nat)
deriving DecidableEq, Repr

/-- START (70_reset_and_hazards.md R620): S, V, Y, M and the scope rings to their reset values, STATUS to 0, S.spt
recomputed, the pan updated; SAMPLE_RATE, STEREO_MIX, CTRL and the output stream kept (log entry 11). -/
def startBlock (s : State) : State :=
  panUpdate (recomputeSpt
    { s with
      seq := Seq.reset s.cr.sampleRate
      chans := Vector.replicate 8 (Chan.reset s.cfg.scopeLen 0 0)
      cr := { s.cr with status := 0 }
      ch := 0 })

/-- CREATE (60_exceptions.md R595, R582): a song that meets the load preconditions is held with RESTART clamped, the
configuration registers take their reset values and START runs; otherwise no song is held. DESIGN CHOICE (log entry 13): a failed CREATE puts the blank song in memory and keeps S, the channel
banks, CR and the output stream. What `Song.wf` refuses is log entry 20's. -/
def createSong (r : LoadResult) (s : State) : State × HostReply :=
  let fail := fun e => ({ s with loaded := false, song := Song.blank }, HostReply.failure e)
  match r with
  | .failed e => fail e
  | .song g =>
    if g.clampRestart.wf then
      (startBlock { s with loaded := true, song := g.clampRestart, cr := Ctrl.reset }, .done)
    else fail .bounds

/-- WRITE SAMPLE_RATE (60_exceptions.md R597). -/
def writeSampleRate (r : BitVec 32) (s : State) : State :=
  if r.toNat < 8000 ∨ 192000 < r.toNat then s
  else forChannels mixerUpdate (recomputeSpt { s with cr := { s.cr with sampleRate := r } })

/-- WRITE STEREO_MIX (60_exceptions.md R597). -/
def writeStereoMix (v : BitVec 32) (s : State) : State :=
  panUpdate { s with cr := { s.cr with stereoMix := BitVec.ofNat 9 (min v.toNat 256) } }

/-- WRITE CTRL (60_exceptions.md R597). -/
def writeCtrl (v : BitVec 32) (s : State) : State :=
  { s with cr := { s.cr with scopeEn := v.getLsbD 0 } }

/-- WRITE (60_exceptions.md R595): CTRL, SAMPLE_RATE and STEREO_MIX; other offsets ignored. -/
def writeRegister (offset : Nat) (v : BitVec 32) (s : State) : State :=
  if offset = 0x04 then writeCtrl v s
  else if offset = 0x0C then writeSampleRate v s
  else if offset = 0x10 then writeStereoMix v s
  else s

/-- The channel an offset of the map's channel part names (10_state.md R80). -/
def channelOf (offset : Nat) : Nat := (offset - 0x40) / 16

/-- The register of channel c at an offset of the map's channel part (10_state.md R80). -/
def readChannel (offset : Nat) (v : Voice) : BitVec 32 :=
  if (offset - 0x40) % 16 = 0 then v.inst.setWidth 32
  else if (offset - 0x40) % 16 = 4 then v.volume.setWidth 32
  else if (offset - 0x40) % 16 = 8 then v.outPeriod.setWidth 32
  else (v.fx ++ v.arg).setWidth 32

/-- READ (10_state.md R80, R83, 90_conflicts.md C10); it changes nothing (60_exceptions.md R605). Channel registers of
channels a song does not have read 0; an offset the map gives no register is a free value (log entry 9). -/
def readRegister (offset : Nat) (s : State) : BitVec 32 :=
  if offset = 0x00 then BitVec.ofNat 32 s.nch
  else if offset = 0x04 then (BitVec.ofBool s.cr.scopeEn).setWidth 32
  else if offset = 0x08 then s.cr.status
  else if offset = 0x0C then s.cr.sampleRate
  else if offset = 0x10 then s.cr.stereoMix.setWidth 32
  else if offset = 0x14 then s.seq.loops
  else if offset = 0x18 then s.seq.curPos.setWidth 32
  else if offset = 0x1C then (posList s s.seq.curPos).1.setWidth 32
  else if offset = 0x20 then s.seq.curRow.setWidth 32
  else if offset = 0x24 then s.seq.speed.setWidth 32
  else if offset = 0x28 then s.seq.tempo.setWidth 32
  else if 0x40 ≤ offset ∧ offset % 4 = 0 then
    if h : channelOf offset < 8 then
      if channelOf offset < s.nch then readChannel offset (s.voice ⟨channelOf offset, h⟩) else 0
    else 0
  else unmappedRead offset

/-- DECODE's n frames (60_exceptions.md R595): n steps of the machine. Nothing else runs a frame, so time moves by DECODE only
(R606). -/
def decodeFrames : Nat → State → Result
  | 0, s => .next s
  | n + 1, s => andThen (stepFrame s) (decodeFrames n)

/-- The finished flag (60_exceptions.md R595): S.loops > 0. -/
def finished (s : State) : Bool := decide (0 < s.seq.loops.toNat)

/-- SCOPE(ch) (60_exceptions.md R595). -/
def readScope (ch : Nat) (s : State) : HostReply :=
  if h : ch < 8 then
    if ch < s.nch then .ring (s.scope ⟨ch, h⟩).ring (s.scope ⟨ch, h⟩).wp else .notFound
  else .notFound

/-- CELL(pat, row, ch) (60_exceptions.md R583, R595). -/
def readCell (pat row ch : Nat) (s : State) : HostReply :=
  match s.song.cellAt pat row ch with
  | some w => .value w
  | none => .notFound

/-- A reply that changes no state: the block's state is kept between the frames that DECODE runs (60_exceptions.md R605,
R606). -/
def query (s : State) (r : HostReply) : Host.Outcome (State × HostReply) Fault Refusal :=
  .next (s, r)

/-- A host operation on the block: the state after it and its result (60_exceptions.md R595). Before a successful CREATE
every other operation is refused with no effect (R596). There are no power states (R606): State has no field for one, the state
the operation gets is the one the last operation left, and only `decode` runs frames. -/
def hostOp (op : HostOp) (s : State) : Host.Outcome (State × HostReply) Fault Refusal :=
  match op with
  | .create r => .next (createSong r s)
  | .setSampleRate r => if s.loaded then .next (writeSampleRate r s, .done) else query s .refused
  | .start _ => if s.loaded then .next (startBlock s, .done) else query s .refused
  | .decode n =>
    if s.loaded then
      match decodeFrames n s with
      | .next t => .next (t, .frames n (finished t))
      | .fault x => .fault x
      | .refused x => .refused x
    else query s .refused
  | .read offset => if s.loaded then query s (.value (readRegister offset s)) else query s .refused
  | .write offset v => if s.loaded then .next (writeRegister offset v s, .done) else query s .refused
  | .cell pat row ch => if s.loaded then query s (readCell pat row ch s) else query s .refused
  | .scope ch => if s.loaded then query s (readScope ch s) else query s .refused
  | .metadata => if s.loaded then query s (.counts s.song.numPatterns s.song.numInstr) else query s .refused

end Sys2Proof.Machine
end

