-- ==== Sys2Proof/Safety.lean ====
section
/-! DEFINITION. What a safe state is: the legal values of spec/10_state.md and the invariants of spec/40_sequencer.md R216,
as one predicate, and the frame predicates in which claims say what a rule leaves alone. -/

namespace Sys2Proof.Machine

/-- A period register holds 0 or a period (10_state.md R42: "0, or 103 .. 65535"). -/
def legalPeriod (p : BitVec 16) : Prop := p = 0 ∨ periodMin ≤ p.toNat

/-- The legal values of S (10_state.md R31 to R35, R83; 40_sequencer.md R201, R216). -/
structure SeqInv (g : Song) (sampleRate : BitVec 32) (q : Seq) : Prop where
  pos : q.pos.toNat < g.numPositions
  curPos : q.curPos.toNat < g.numPositions
  speed : 1 ≤ q.speed.toNat ∧ q.speed.toNat ≤ 32
  tempo : 33 ≤ q.tempo.toNat ∧ q.tempo.toNat ≤ 200
  spt : q.spt = samplesPerTick sampleRate q.tempo
  acc : 0 ≤ q.acc.toInt ∧ q.acc.toInt < 192000
  delay : -1 ≤ q.delay.toInt ∧ q.delay.toInt ≤ 14
  loopCnt : q.loopCnt.toNat ≤ 15 ∨ q.loopCnt = loopExhausted

/-- The legal values of V[c] (10_state.md R41 to R46). -/
structure VoiceInv (g : Song) (v : Voice) : Prop where
  inst : v.inst.toNat ≤ g.numInstr
  period : legalPeriod v.period
  outPeriod : legalPeriod v.outPeriod
  portaTarget : legalPeriod v.portaTarget
  arpOut : legalPeriod v.arpOut
  volume : v.volume.toNat ≤ volMax
  trackVol : v.trackVol.toNat ≤ volMax
  vibAmp : v.vibAmp.extractLsb' 6 2 = 0
  arpSpeed : 1 ≤ v.arpSpeed.toNat
  arpEnd : arpEntryAt v.arpList 8 = arpSentinel
  arpPos : v.arpPos.toNat ≤ 8
  arpCursor : v.arpOn = true → 0 ≤ (arpEntryAt v.arpList 0).toInt ∧ 0 ≤ (arpEntryAt v.arpList v.arpPos.toNat).toInt

/-- The legal values of M[c] (10_state.md R68 to R70; 47_mixer.md R534, R545, R549). -/
structure MixerInv (var : Variant) (k : BitVec 9) (c : Channel) (m : Mixer) : Prop where
  phase : 0 ≤ m.phase
  inc : 0 ≤ m.inc
  gain : 0 ≤ m.gain ∧ m.gain ≤ 127 / 128
  pan : (m.panL, m.panR) = panGains var k c
  loopLen : m.loopValid = true → 0 < m.loopLen.toNat

/-- The legal values of the banks of one channel. A synth voice's loop is valid exactly if its wave is not empty
(47_mixer.md R534). Y.wave names a waveform of the song (10_state.md R62), but for the reset value 0, which a song with no
waveform cannot name and which no synth voice then plays. -/
structure ChanInv (s : State) (c : Channel) : Prop where
  voice : VoiceInv s.song (s.voice c)
  mixer : MixerInv s.song.variant s.cr.stereoMix c (s.mixer c)
  synthLoop : (s.voice c).isSynth = true → (s.mixer c).loopValid = decide (0 < (s.synth c).wlen.toNat)
  wlen : (s.synth c).wlen.toNat ≤ 131070
  wave : (s.synth c).wave.toNat < s.song.numWaves ∨ ((s.synth c).wave = 0 ∧ (s.voice c).isSynth = false)
  ring : (s.scope c).ring.length = s.cfg.scopeLen
  wp : (s.scope c).wp < s.cfg.scopeLen

/-- A legal state: a song that meets the load preconditions under well-formed parameters, and every register at a legal
value. The synth-volume range [0,127] and the row range 0 .. 63 are the widths of their fields. -/
structure Inv (s : State) : Prop where
  cfg : s.cfg.wf = true
  song : s.song.wf = true
  held : s.loaded = true
  rate : 8000 ≤ s.cr.sampleRate.toNat ∧ s.cr.sampleRate.toNat ≤ 192000
  stereo : s.cr.stereoMix.toNat ≤ 256
  status : s.cr.status.toNat < 16
  seq : SeqInv s.song s.cr.sampleRate s.seq
  chans : ∀ c ∈ s.channels, ChanInv s c

/-- The gain of every channel is the one its voice and synth registers give: MixerUpdate, the last phase of every tick, has
seen them (47_mixer.md R520, R545). -/
def GainsFollow (s : State) : Prop :=
  ∀ c ∈ s.channels, (s.mixer c).gain = gainOf s.cfg s.song.variant (s.voice c) (s.synth c)

/-- t differs from s only in the banks of channel c and in STATUS bits that s had clear (10_state.md R40, R82). -/
structure OnlyChannel (c : Channel) (s t : State) : Prop where
  cfg : t.cfg = s.cfg
  loaded : t.loaded = s.loaded
  song : t.song = s.song
  seq : t.seq = s.seq
  out : t.out = s.out
  ch : t.ch = s.ch
  scopeEn : t.cr.scopeEn = s.cr.scopeEn
  sampleRate : t.cr.sampleRate = s.cr.sampleRate
  stereoMix : t.cr.stereoMix = s.cr.stereoMix
  status : s.cr.status ||| t.cr.status = t.cr.status
  others : ∀ d, d ≠ c → t.chan d = s.chan d

/-- t keeps what no cell and no frame may write: the parameters, the song, the host's registers; STATUS bits only grow
(10_state.md R82, R85, 60_exceptions.md R590). -/
structure KeepsHost (s t : State) : Prop where
  cfg : t.cfg = s.cfg
  loaded : t.loaded = s.loaded
  song : t.song = s.song
  scopeEn : t.cr.scopeEn = s.cr.scopeEn
  sampleRate : t.cr.sampleRate = s.cr.sampleRate
  stereoMix : t.cr.stereoMix = s.cr.stereoMix
  status : s.cr.status ||| t.cr.status = t.cr.status

/-- t differs from s only in S, in CR and in the banks of the song's channels: what a register write may touch
(60_exceptions.md R597). -/
structure OnlyPlayback (s t : State) : Prop where
  cfg : t.cfg = s.cfg
  loaded : t.loaded = s.loaded
  song : t.song = s.song
  out : t.out = s.out
  ch : t.ch = s.ch
  others : ∀ c, c ∉ s.channels → t.chan c = s.chan c

/-- The state in which a cell's Dispatch runs: after its RowLoad on the tick that loads the row, the state itself on every
other tick (40_sequencer.md R210, log entry 1). -/
def afterLoad (i : Instr) (s : State) : State :=
  if s.seq.first then rowLoad s.ch (i.fields s.cfg.codes) s else s

/-- The instrument number a cell leaves on a voice (41_row_load.md R253): the cell's where it names an instrument of the
song, the voice's own otherwise. -/
def resolvedNumber (g : Song) (inst prev : BitVec 6) : BitVec 6 :=
  if inst = 0 then prev else if inst.toNat ≤ g.numInstr then inst else prev

/-- The volume and fine-tune a cell's instrument number leaves on a voice (41_row_load.md R253), the volume at most 64
(42_tick_gated_effects.md R304). -/
def resolvedVoice (g : Song) (f : CellFields) (v : Voice) : Voice :=
  match (if f.inst = 0 then none else g.instruments[f.inst.toNat - 1]?) with
  | some i => { v with
      fx := f.fx, arg := f.arg, arpidx := f.arpidx
      inst := f.inst, volume := BitVec.ofNat 7 (min 64 i.volume.toNat), ft := i.finetune }
  | none => { v with fx := f.fx, arg := f.arg, arpidx := f.arpidx }

/-- The offset list a cell's arpeggio setup puts in force, empty where there is none (45_arpeggio.md R433, R434). -/
def cellOffsets (s : State) (f : CellFields) : List Nibble :=
  if f.fx ≠ s.cfg.codes.arp then []
  else if f.arg ≠ 0 then [0, argX f.arg, argY f.arg]
  else if f.arpidx = 0 then []
  else (s.song.arpNibbles f.arpidx.toNat).takeWhile (fun n => n != s.cfg.arpEnd)

/-- A voice with an offset list put in force, or with its arpeggio off where the list is empty: an arpeggio that was on keeps
its counter, its output and a cursor inside the new list (45_arpeggio.md R434). -/
def withArpeggio (l : List Nibble) (v : Voice) : Voice :=
  if l = [] then { v with arpOn := false }
  else { v with
    arpOn := true
    arpList := arpListOf l
    arpPos := if v.arpOn = true ∧ v.arpPos.toNat < l.length then v.arpPos else 0
    arpCtr := if v.arpOn then v.arpCtr else 0
    arpOut := if v.arpOn then v.arpOut else v.period }

/-- s with the tick's vibrato delta of every channel of the song at 0 (40_sequencer.md R204). -/
def withoutDeltas (s : State) : State :=
  { s with chans := Vector.ofFn (fun c : Channel => if c.val < s.nch then { s.chan c with dv := 0 } else s.chan c) }

end Sys2Proof.Machine
end

