-- ==== Sys2Proof/Certificates/Slice0/Obligations.lean ====
section
/-! DEFINITION. The statements for the provers, from the numbered rules of spec/. -/

open Sys2Proof Sys2Proof.Machine

/-! ## Encoding -/

/-- Decode and encode agree on every well-formed instruction with every operand, under every code map that gives each effect
one code (30_encoding.md R140, R141, R151, R152, R172). -/
def Obligations.DecodeOfEncodeIsTheInstruction : Prop :=
  ∀ (m : EffectCodeMap) (i : Instr), m.wf = true → i.wf m = true →
    decode m (encode m i) = .instr i ∧ decodeBytes m (encodeBytes m i) = .instr i

/-- A word with an instruction is that instruction's encoding but for the pad bits, which change nothing (30_encoding.md
R162, R172). -/
def Obligations.EncodeOfDecodeClearsOnlyThePad : Prop :=
  ∀ (m : EffectCodeMap) (w : CellWord),
    decode m (w &&& 0xFFFF3FFF#32) = decode m w ∧
    ∀ i, decode m w = .instr i → encode m i = w &&& 0xFFFF3FFF#32

/-- The decoder rejects exactly the words whose effect code is reserved, and under the default map these are 0x07, 0x08 and
0x18 to 0x3F (30_encoding.md R151, R152, R160). -/
def Obligations.DecoderRejectsExactlyTheReservedCodes : Prop :=
  (∀ (m : EffectCodeMap) (w : CellWord) (f : CellFields),
    decode m w = .reservedEffect f ↔ m.isReserved (fieldsOf w).fx = true ∧ f = fieldsOf w) ∧
  ∀ fx : Code, EffectCodeMap.default.isReserved fx = true ↔ fx = 0x07#6 ∨ fx = 0x08#6 ∨ 0x18 ≤ fx.toNat

/-- Words written out from 30_encoding.md decode to the instructions they stand for (95_test_vectors.md V-DEC1 to V-DEC4). -/
def Obligations.WrittenWordsDecodeToTheirInstructions : Prop :=
  decode EffectCodeMap.default 0xC5C10E62#32 = .instr (.patternLoop ⟨15, 5, 1⟩ 2) ∧
  decode EffectCodeMap.default 0x0000CE62#32 = .instr (.patternLoop ⟨0, 0, 0⟩ 2) ∧
  decode EffectCodeMap.default 0x19010C40#32 = .instr (.setVolume ⟨0, 25, 1⟩ 0x40) ∧
  decode EffectCodeMap.default 0x1D000320#32 = .instr (.tonePorta ⟨0, 29, 0⟩ 0x20) ∧
  decode EffectCodeMap.default 0x00000000#32 = .instr (.arp ⟨0, 0, 0⟩ 0 0)

/-- BreakRow reads the argument's nibbles x, y as the decimal number 10x + y and gives 0 from 64 on (30_encoding.md R147). -/
def Obligations.BreakRowIsTheDecimalReading : Prop :=
  ∀ x y : Nibble, (breakRow (argOf x y)).toNat =
    if 10 * x.toNat + y.toNat < 64 then 10 * x.toNat + y.toNat else 0

/-! ## Pass (a) -/

/-- PeriodOf clamps the note to 1..60, looks it up and floors the period at 103 (45_arpeggio.md R430). -/
def Obligations.PeriodOfLooksUpAndClamps : Prop :=
  ∀ (cfg : Config) (ft : BitVec 4) (n : Int),
    (periodOf cfg ft n).toNat =
      max 103 ((cfg.periodTable[ft.toNat]'ft.isLt).toList.getD ((max 1 (min 60 n)).toNat - 1) 0).toNat

/-- SLIDE_UP and SLIDE_DOWN: on a tick that is not 0 the base period moves by the argument and is clamped to [103, 65535];
a voice with no pitch, tick 0, and everything else keep what the row load left (42_tick_gated_effects.md R300, R301, R303,
R310, R312). -/
def Obligations.SlidesMoveThePeriodOnNonzeroTicks : Prop :=
  ∀ (h : Head) (arg : Byte) (s : State),
    (let t := afterLoad (.slideUp h arg) s
     let v := t.voice s.ch
     exec (.slideUp h arg) s = .next (if t.seq.tick = 0 ∨ v.period = 0 then t
       else t.setVoice s.ch { v with period := BitVec.ofNat 16 (max 103 (v.period.toNat - arg.toNat)) })) ∧
    (let t := afterLoad (.slideDown h arg) s
     let v := t.voice s.ch
     exec (.slideDown h arg) s = .next (if t.seq.tick = 0 ∨ v.period = 0 then t
       else t.setVoice s.ch
         { v with period := BitVec.ofNat 16 (max 103 (min 65535 (v.period.toNat + arg.toNat))) }))

/-- One portamento step brings the period nearer to its target by the speed and never past it; a voice with no pitch or no
target keeps its period (42_tick_gated_effects.md R306). -/
def Obligations.PortamentoStepNeverPassesItsTarget : Prop :=
  ∀ v : Voice,
    (v.period = 0 ∨ v.portaTarget = 0 → portaStepPeriod v = v.period) ∧
    (v.period ≠ 0 → v.portaTarget ≠ 0 →
      let p : Int := v.period.toNat
      let t : Int := v.portaTarget.toNat
      let q : Int := (portaStepPeriod v).toNat
      (q - t).natAbs = (p - t).natAbs - v.portaSpeed.toNat ∧ min p t ≤ q ∧ q ≤ max p t)

/-- TONE_PORTA: on a tick that is not 0 a nonzero argument becomes the speed and the period takes one step to the target;
TONE_PORTA_VSLIDE takes the step at the stored speed, then slides the volume, up first (42_tick_gated_effects.md R300, R305,
R306, R315, R325). On a voice with no pitch both do nothing (R301); that R301's test comes before the writes which the
pseudocode of R315 and R325 shows without it is the model's reading (log entry 18). -/
def Obligations.TonePortamentoStepsAndSlides : Prop :=
  ∀ (h : Head) (arg : Byte) (x y : Nibble) (s : State),
    (let t := afterLoad (.tonePorta h arg) s
     let v : Voice := { t.voice s.ch with portaSpeed := if arg = 0 then (t.voice s.ch).portaSpeed else arg }
     exec (.tonePorta h arg) s = .next (if t.seq.tick = 0 ∨ v.period = 0 then t
       else t.setVoice s.ch { v with period := portaStepPeriod v })) ∧
    (let t := afterLoad (.tonePortaVslide h x y) s
     let v := t.voice s.ch
     exec (.tonePortaVslide h x y) s = .next (if t.seq.tick = 0 ∨ v.period = 0 then t
       else t.setVoice s.ch { v with
         period := portaStepPeriod v
         volume := if x = 0 then BitVec.ofNat 7 (min 64 (v.volume.toNat - y.toNat))
           else BitVec.ofNat 7 (min 64 (v.volume.toNat + x.toNat)) }))

/-- The voice and the tick's delta after one vibrato step: the table entry times the depth over 128, signed by the half
cycle; the position advances by the speed and a wrap flips the sign (42_tick_gated_effects.md R307). -/
def Obligations.VibratoStepReadsTheTableAndAdvances : Prop :=
  ∀ (c : Channel) (s : State),
    let v := s.voice c
    let sel := min (vibSelect v.vibAmp).toNat 2
    let entry := ((s.cfg.vibTable.toList.getD sel (Vector.replicate 32 0)).toList.getD v.vibPos.toNat 0).toNat
    let delta : Int := (entry * (vibDepth v.vibAmp).toNat / 128 : Nat)
    let p := v.vibPos.toNat + v.vibSpeed.toNat
    vibratoStep c s = (s.setDv c (if v.vibSign then -delta else delta)).setVoice c { v with
      vibPos := BitVec.ofNat 5 p
      vibSign := if p < 32 then v.vibSign else !v.vibSign } ∧
    0 ≤ delta ∧ delta ≤ 29

/-- VIBRATO stores a nonzero speed and depth and takes a vibrato step on a tick that is not 0; VIBRATO_VSLIDE takes the step
with the stored values and slides the volume, up first (42_tick_gated_effects.md R300, R305, R320, R327). That both act on a
voice with no pitch too, because they write no period register, is the model's reading of R301 (log entry 18). -/
def Obligations.VibratoStoresItsNibblesAndSteps : Prop :=
  ∀ (h : Head) (x y : Nibble) (s : State),
    (let t := afterLoad (.vibrato h x y) s
     let v := t.voice s.ch
     exec (.vibrato h x y) s = .next (if t.seq.tick = 0 then t
       else vibratoStep s.ch (t.setVoice s.ch { v with
         vibSpeed := if x = 0 then v.vibSpeed else x
         vibAmp := if y = 0 then v.vibAmp else (v.vibAmp &&& 0xF0#8) ||| y.setWidth 8 }))) ∧
    (let t := afterLoad (.vibratoVslide h x y) s
     let u := vibratoStep s.ch t
     let v := u.voice s.ch
     exec (.vibratoVslide h x y) s = .next (if t.seq.tick = 0 then t
       else u.setVoice s.ch { v with
         volume := if x = 0 then BitVec.ofNat 7 (min 64 (v.volume.toNat - y.toNat))
           else BitVec.ofNat 7 (min 64 (v.volume.toNat + x.toNat)) }))

/-- VOLUME_SLIDE: on a tick that is not 0 the volume goes up by x, or down by y when x is 0, and stays in [0,64]
(42_tick_gated_effects.md R300, R304, R305, R330). -/
def Obligations.VolumeSlideMovesTheVolume : Prop :=
  ∀ (h : Head) (x y : Nibble) (s : State),
    let t := afterLoad (.volumeSlide h x y) s
    let v := t.voice s.ch
    exec (.volumeSlide h x y) s = .next (if t.seq.tick = 0 then t
      else t.setVoice s.ch { v with
        volume := if x = 0 then BitVec.ofNat 7 (min 64 (v.volume.toNat - y.toNat))
          else BitVec.ofNat 7 (min 64 (v.volume.toNat + x.toNat)) })

/-! ## Pass (b) -/

/-- POSITION_JUMP and PATTERN_BREAK write their pending flag and target on the first tick of the row and nothing on any other
tick (43_every_tick_effects.md R351, R352, R356). -/
def Obligations.JumpAndBreakArmOnTheFirstTick : Prop :=
  ∀ (h : Head) (arg : Byte) (s : State),
    (let t := afterLoad (.positionJump h arg) s
     exec (.positionJump h arg) s =
       .next (if s.seq.first then t.setSeq { t.seq with jmp := true, jmpPos := arg } else t)) ∧
    (let t := afterLoad (.patternBreak h arg) s
     exec (.patternBreak h arg) s =
       .next (if s.seq.first then t.setSeq { t.seq with brk := true, brkRow := breakRow arg } else t))

/-- SET_SPEED: 1..32 is the speed; 33..200 is the tempo, and a change of tempo recomputes S.spt as SAMPLE_RATE div
((tempo * 2) div 5); 0 and 201..255 change nothing; on every tick (43_every_tick_effects.md R358, 40_sequencer.md R201). -/
def Obligations.SetSpeedSetsSpeedOrTempo : Prop :=
  ∀ (h : Head) (arg : Byte) (s : State),
    let t := afterLoad (.setSpeed h arg) s
    exec (.setSpeed h arg) s = .next (
      if 1 ≤ arg.toNat ∧ arg.toNat ≤ 32 then t.setSeq { t.seq with speed := arg }
      else if 33 ≤ arg.toNat ∧ arg.toNat ≤ 200 ∧ t.seq.tempo ≠ arg then
        t.setSeq { t.seq with
          tempo := arg
          spt := BitVec.ofNat 32 (t.cr.sampleRate.toNat / (arg.toNat * 2 / 5)) }
      else t)

/-- SET_VOLUME and TRACK_VOLUME write the argument clamped to 64 on every tick; NEW_VOLUME writes the synth volume clamped to
127 on the first tick of the row and nothing on any other tick (43_every_tick_effects.md R351, R354, R364, R374). -/
def Obligations.VolumeWritesAreClamped : Prop :=
  ∀ (h : Head) (arg : Byte) (s : State),
    (let t := afterLoad (.setVolume h arg) s
     exec (.setVolume h arg) s =
       .next (t.setVoice s.ch { t.voice s.ch with volume := BitVec.ofNat 7 (min 64 arg.toNat) })) ∧
    (let t := afterLoad (.trackVolume h arg) s
     exec (.trackVolume h arg) s =
       .next (t.setVoice s.ch { t.voice s.ch with trackVol := BitVec.ofNat 7 (min 64 arg.toNat) })) ∧
    (let t := afterLoad (.newVolume h arg) s
     exec (.newVolume h arg) s = .next (if s.seq.first
       then t.setSynth s.ch { t.synth s.ch with svol := BitVec.ofNat 7 (min 127 arg.toNat) } else t))

/-- WAVE_SPEED writes Y.wspeed, ARP_SPEED writes V.arp_speed as at least 1, WAVE_MODE writes the mode of arg[1:0] and leaves
it for 3; on every tick (43_every_tick_effects.md R366, R368, R376). -/
def Obligations.SynthAndArpeggioParametersAreWritten : Prop :=
  ∀ (h : Head) (arg : Byte) (s : State),
    (let t := afterLoad (.waveSpeed h arg) s
     exec (.waveSpeed h arg) s = .next (t.setSynth s.ch { t.synth s.ch with wspeed := arg })) ∧
    (let t := afterLoad (.arpSpeed h arg) s
     exec (.arpSpeed h arg) s =
       .next (t.setVoice s.ch { t.voice s.ch with arpSpeed := BitVec.ofNat 8 (max arg.toNat 1) })) ∧
    (let t := afterLoad (.waveMode h arg) s
     let y := t.synth s.ch
     exec (.waveMode h arg) s = .next (t.setSynth s.ch { y with
       wmode := match arg.toNat % 4 with
         | 0 => .normal
         | 1 => .backward
         | 2 => .pingpong
         | _ => y.wmode }))

/-- FINE_SLIDE_UP and FINE_SLIDE_DOWN move the base period once, on the first tick of the row, clamped to [103, 65535]; a
voice with no pitch and every other tick keep it (43_every_tick_effects.md R351, R370, R372). -/
def Obligations.FineSlidesMoveThePeriodOncePerRow : Prop :=
  ∀ (h : Head) (arg : Byte) (s : State),
    (let t := afterLoad (.fineSlideUp h arg) s
     let v := t.voice s.ch
     exec (.fineSlideUp h arg) s = .next (if s.seq.first = false ∨ v.period = 0 then t
       else t.setVoice s.ch { v with period := BitVec.ofNat 16 (max 103 (v.period.toNat - arg.toNat)) })) ∧
    (let t := afterLoad (.fineSlideDown h arg) s
     let v := t.voice s.ch
     exec (.fineSlideDown h arg) s = .next (if s.seq.first = false ∨ v.period = 0 then t
       else t.setVoice s.ch
         { v with period := BitVec.ofNat 16 (max 103 (min 65535 (v.period.toNat + arg.toNat))) }))

/-- EXT_EVENT, FILTER, ARP and SAMPLE_OFFSET do nothing at Dispatch: the state is what the row load leaves, and on a tick that
loads no row the whole state is unchanged (30_encoding.md R152, R163, 43_every_tick_effects.md R378, 44_extra_effects.md
R402). -/
def Obligations.InertAndRowLoadEffectsDispatchNothing : Prop :=
  ∀ (h : Head) (arg : Byte) (x y : Nibble) (s : State),
    exec (.extEvent h arg) s = .next (afterLoad (.extEvent h arg) s) ∧
    exec (.filter h y) s = .next (afterLoad (.filter h y) s) ∧
    exec (.arp h x y) s = .next (afterLoad (.arp h x y) s) ∧
    exec (.sampleOffset h arg) s = .next (afterLoad (.sampleOffset h arg) s) ∧
    (∀ i, s.seq.first = false → afterLoad i s = s)

/-! ## Extra -/

/-- EXTRA with a reserved sub-code does nothing at Dispatch; with an assigned sub-code it runs that sub-effect
(44_extra_effects.md R400, 30_encoding.md R161). -/
def Obligations.ExtraRunsItsSubEffectOrNothing : Prop :=
  ∀ (h : Head) (x y : Nibble) (s : State), s.cfg.codes.wf = true →
    exec (.extra h x y) s =
      if x = s.cfg.codes.filter then exec (.filter h y) s
      else if x = s.cfg.codes.vibWave then exec (.vibWave h y) s
      else if x = s.cfg.codes.patternLoop then exec (.patternLoop h y) s
      else if x = s.cfg.codes.patternDelay then exec (.patternDelay h y) s
      else .next (afterLoad (.extra h x y) s)

/-- VIB_WAVE replaces bits [5:4] of the vibrato-amplitude byte by y[1:0], on every tick (44_extra_effects.md R404). -/
def Obligations.VibWaveReplacesTheTableBits : Prop :=
  ∀ (h : Head) (y : Nibble) (s : State),
    let t := afterLoad (.vibWave h y) s
    let v := t.voice s.ch
    exec (.vibWave h y) s = .next (t.setVoice s.ch
      { v with vibAmp := (v.vibAmp &&& 0xCF#8) ||| ((y.setWidth 8 &&& 0x03#8) <<< 4) })

/-- PATTERN_LOOP on the first tick: y = 0 stores the loop point; else an exhausted counter stays, an uninitialized one starts
at y and loops, 1 becomes 0xF0 without a loop, any other counts down and loops. PATTERN_DELAY on the first tick arms the
counter to y - 1 when y is not 0. Both do nothing on other ticks (44_extra_effects.md R406, R410). -/
def Obligations.PatternLoopCountsAndPatternDelayArms : Prop :=
  ∀ (h : Head) (y : Nibble) (s : State),
    (let t := afterLoad (.patternLoop h y) s
     let q := t.seq
     exec (.patternLoop h y) s = .next (
       if s.seq.first = false then t
       else if y = 0 then t.setSeq { q with loopRow := q.curRow }
       else if q.loopCnt.toNat = 0xF0 then t
       else if q.loopCnt.toNat = 0 then t.setSeq { q with loopCnt := BitVec.ofNat 8 y.toNat, loopFlag := true }
       else if q.loopCnt.toNat = 1 then t.setSeq { q with loopCnt := 0xF0#8 }
       else t.setSeq { q with loopCnt := BitVec.ofNat 8 (q.loopCnt.toNat - 1), loopFlag := true })) ∧
    (let t := afterLoad (.patternDelay h y) s
     exec (.patternDelay h y) s = .next (
       if s.seq.first = false ∨ y = 0 then t
       else t.setSeq { t.seq with delay := BitVec.ofNat 8 (y.toNat - 1) }))

/-! ## Row load -/

/-- RowLoad marks reserved codes and sub-codes and out-of-range instruments in STATUS, and marks nothing else: where the voice's
own instrument is one of the song, OOB_READ becomes set exactly for a cell that names an instrument past NUM_INSTR
(41_row_load.md R252, R253, R254; 30_encoding.md R160, R161; 20_memory.md R116). -/
def Obligations.RowLoadMarksReservedCodes : Prop :=
  ∀ (c : Channel) (f : CellFields) (s : State),
    let t := rowLoad c f s
    flagged .rsvdFx t = (flagged .rsvdFx s || decide (f.fx ∉ s.cfg.codes.codes)) ∧
    flagged .rsvdExtra t =
      (flagged .rsvdExtra s || decide (f.fx = s.cfg.codes.extra ∧ argX f.arg ∉ s.cfg.codes.subcodes)) ∧
    flagged .songEnd t = flagged .songEnd s ∧
    (s.song.numInstr < f.inst.toNat → flagged .oobRead t = true) ∧
    ((s.voice c).inst.toNat ≤ s.song.numInstr →
      flagged .oobRead t = (flagged .oobRead s || decide (s.song.numInstr < f.inst.toNat))) ∧
    (∀ k, 4 ≤ k → t.cr.status.getLsbD k = s.cr.status.getLsbD k) ∧
    runReserved f s = .next (if s.seq.first then rowLoad s.ch f s else s)

/-- A cell with no note only latches its effect, resolves its instrument, whose volume is loaded clamped to 64, and sets the
arpeggio up, which puts the cell's offset list in force or, where there is none, the arpeggio off; pitch, mixer and envelope
stay (41_row_load.md R252, R253, R255; 42_tick_gated_effects.md R304; 45_arpeggio.md R434). That a descriptor volume can be above
64 is log entry 20. -/
def Obligations.CellWithoutNoteLeavesTheSoundAlone : Prop :=
  ∀ (c : Channel) (f : CellFields) (s : State), f.note = 0 →
    let t := rowLoad c f s
    t.chan c = { s.chan c with v := withArpeggio (cellOffsets s f) (resolvedVoice s.song f (s.voice c)) } ∧
    OnlyChannel c s t

/-- A note that triggers a sample instrument, in a cell with any effect and any arpeggio: the voice, the mixer region and the
envelope that 41_row_load.md R252, R259 to R261, R263 and R270 and 45_arpeggio.md R434 give; the scope and the rest of the
machine stay, but for STATUS bits that become set. Every note triggers but a tone portamento's on the voice's own instrument. -/
def Obligations.NoteTriggersASampleInstrument : Prop :=
  ∀ (c : Channel) (f : CellFields) (s : State) (i : Instrument) (b : SampleBody),
    f.note ≠ 0 →
    (isTonePorta s.cfg.codes f.fx = false ∨ (f.inst ≠ 0 ∧ f.inst ≠ (s.voice c).inst) ∨ (s.voice c).inst = 0) →
    s.song.instrumentAt (resolvedNumber s.song f.inst (s.voice c).inst).toNat = some i → i.body = .sample b →
    let t := rowLoad c f s
    let v := resolvedVoice s.song f (s.voice c)
    let p := periodOf s.cfg v.ft f.note.toNat
    let l := cellOffsets s f
    let len := 2 * b.len.toNat
    let off := if f.fx = s.cfg.codes.sampleOffset then 256 * f.arg.toNat else 0
    t.voice c = { v with
      note := f.note, period := p, isSynth := false, vibPos := 0, vibSign := false
      portaTarget := if isTonePorta s.cfg.codes f.fx then p else v.portaTarget
      arpPos := 0, arpCtr := 0, arpOut := p
      arpList := if l = [] then v.arpList else arpListOf l
      arpOn := decide (l ≠ []) } ∧
    t.mixer c = { s.mixer c with
      phase := 0
      curWave := i.wave
      curOff := BitVec.ofNat 32 (2 * b.start.toNat + min off len)
      curLen := BitVec.ofNat 32 (len - off)
      loopWave := i.wave
      loopOff := BitVec.ofNat 32 (2 * b.start.toNat + 2 * b.loopStart.toNat)
      loopLen := BitVec.ofNat 32 (2 * b.loopLen.toNat)
      loopValid := decide (s.cfg.loopValidMinWords ≤ b.loopLen.toNat)
      active := decide (0 < b.len.toNat ∨ s.cfg.loopValidMinWords ≤ b.loopLen.toNat) } ∧
    t.synth c = (if s.cfg.adsrOnSamples
      then { s.synth c with
        svol := BitVec.ofNat 7 (min i.adsrStart.toNat 127), add := i.adsrAdd, endLevel := i.adsrEnd, sub := i.adsrSub
        env := .add }
      else { s.synth c with svol := 127, env := .done }) ∧
    t.scope c = s.scope c ∧ t.dv c = s.dv c ∧ OnlyChannel c s t

/-- A note that triggers a synth instrument, in a cell with any effect and any arpeggio (SAMPLE_OFFSET has no effect on it):
the registers that 41_row_load.md R252, R259, R260, R262, R263 and R270 and 45_arpeggio.md R434 give; the scope and the rest
of the machine stay, but for STATUS bits that become set. -/
def Obligations.NoteTriggersASynthInstrument : Prop :=
  ∀ (c : Channel) (f : CellFields) (s : State) (i : Instrument) (b : SynthBody),
    f.note ≠ 0 →
    (isTonePorta s.cfg.codes f.fx = false ∨ (f.inst ≠ 0 ∧ f.inst ≠ (s.voice c).inst) ∨ (s.voice c).inst = 0) →
    s.song.instrumentAt (resolvedNumber s.song f.inst (s.voice c).inst).toNat = some i → i.body = .synth b →
    let t := rowLoad c f s
    let v := resolvedVoice s.song f (s.voice c)
    let p := periodOf s.cfg v.ft f.note.toNat
    let l := cellOffsets s f
    let len := 2 * b.waveLen.toNat
    t.voice c = { v with
      note := f.note, period := p, isSynth := true, vibPos := 0, vibSign := false
      portaTarget := if isTonePorta s.cfg.codes f.fx then p else v.portaTarget
      arpPos := 0, arpCtr := 0, arpOut := p
      arpList := if l = [] then v.arpList else arpListOf l
      arpOn := decide (l ≠ []) } ∧
    t.mixer c = { s.mixer c with
      phase := 0
      curWave := i.wave, curOff := 0, curLen := BitVec.ofNat 32 len
      loopWave := i.wave, loopOff := 0, loopLen := BitVec.ofNat 32 len
      loopValid := decide (0 < len), active := decide (0 < len) } ∧
    t.synth c = {
      svol := BitVec.ofNat 7 (min i.adsrStart.toNat 127), env := .add
      add := i.adsrAdd, endLevel := i.adsrEnd, sub := i.adsrSub
      wave := i.wave, wlen := BitVec.ofNat 17 len, widx := 0, wdir := false
      wlStart := b.wlStart, wlLen := b.wlLen
      wmode := match b.wlCtrl.toNat with
        | 1 => .backward
        | 2 => .pingpong
        | _ => .normal
      wspeed := b.wlSpeed, wctr := 0
      vdelay := b.vibDelay, vspeed := b.vibSpeed, vdepth := b.vibDepth, vwave := b.vibWave, vpos := 0, vsign := false } ∧
    t.scope c = s.scope c ∧ t.dv c = s.dv c ∧ OnlyChannel c s t

/-- A note on a voice that has no instrument, in a cell that names none or one past NUM_INSTR, sets the pitch and silences the
channel, whatever the effect: tone portamento, arpeggio, EXTRA, SAMPLE_OFFSET (which moves the silent region of a voice that
is not a synth voice) and a reserved code too. The missing instrument sets no status bit: STATUS stays where the cell names no
instrument and its code, or sub-code, is assigned (41_row_load.md R252, R254, R259, R260, R270; 45_arpeggio.md R434). -/
def Obligations.NoteWithoutInstrumentIsSilent : Prop :=
  ∀ (c : Channel) (f : CellFields) (s : State),
    f.note ≠ 0 → resolvedNumber s.song f.inst (s.voice c).inst = 0 →
    let t := rowLoad c f s
    let v := s.voice c
    let m := s.mixer c
    let p := periodOf s.cfg v.ft f.note.toNat
    let l := cellOffsets s f
    let len := m.curLen.toNat
    let off := if f.fx = s.cfg.codes.sampleOffset ∧ v.isSynth = false then 256 * f.arg.toNat else 0
    t.voice c = { v with
      fx := f.fx, arg := f.arg, arpidx := f.arpidx
      note := f.note, period := p, vibPos := 0, vibSign := false
      portaTarget := if isTonePorta s.cfg.codes f.fx then p else v.portaTarget
      arpPos := 0, arpCtr := 0, arpOut := p
      arpList := if l = [] then v.arpList else arpListOf l
      arpOn := decide (l ≠ []) } ∧
    t.mixer c = { m with
      phase := 0, active := false
      curOff := BitVec.ofNat 32 (m.curOff.toNat + min off len)
      curLen := BitVec.ofNat 32 (len - off) } ∧
    t.synth c = s.synth c ∧ t.scope c = s.scope c ∧ t.dv c = s.dv c ∧ OnlyChannel c s t ∧
    (f.inst = 0 → flagged .oobRead t = flagged .oobRead s ∧ flagged .songEnd t = flagged .songEnd s ∧
      (f.fx ∈ s.cfg.codes.codes → (f.fx = s.cfg.codes.extra → argX f.arg ∈ s.cfg.codes.subcodes) → t.cr = s.cr))

/-- A tone-portamento note on the voice's own instrument captures the target and the note and does not retrigger: period,
mixer and envelope stay. On another instrument, or on a voice with none, it retriggers, and its target is the new period
(41_row_load.md R252, R258, R259); the mixer region, the voice's kind and the envelope of that retrigger are in
`NoteTriggersASampleInstrument`, `NoteTriggersASynthInstrument` and `NoteWithoutInstrumentIsSilent`, which cover it. -/
def Obligations.TonePortamentoNoteCapturesOrRetriggers : Prop :=
  ∀ (c : Channel) (f : CellFields) (s : State),
    f.note ≠ 0 → isTonePorta s.cfg.codes f.fx = true → f.fx ≠ s.cfg.codes.arp →
    let t := rowLoad c f s
    let own := (s.voice c).inst
    let v := resolvedVoice s.song f (s.voice c)
    let p := periodOf s.cfg v.ft f.note.toNat
    t.scope c = s.scope c ∧ t.dv c = s.dv c ∧ OnlyChannel c s t ∧
    ((f.inst = 0 ∨ f.inst = own) → own ≠ 0 →
      t.chan c = { s.chan c with v := { v with portaTarget := p, note := f.note, arpOn := false } }) ∧
    ((f.inst ≠ 0 ∧ f.inst ≠ own) ∨ own = 0 →
      (t.voice c).period = p ∧ (t.voice c).portaTarget = p ∧ (t.voice c).note = f.note ∧ (t.mixer c).phase = 0)

/-- SAMPLE_OFFSET on a note that triggers a sample instrument moves the start of the region on by 256 bytes a page, and
leaves an empty region at its end when the offset does not fit; the loop region, the voice and the envelope are as the trigger
gives them. Without a note it moves nothing (41_row_load.md R260, R261, R263, R270). -/
def Obligations.SampleOffsetMovesTheRegionStart : Prop :=
  ∀ (h : Head) (arg : Byte) (s : State), s.cfg.codes.wf = true → s.seq.first = true →
    ∃ t, exec (.sampleOffset h arg) s = .next t ∧
      t.scope s.ch = s.scope s.ch ∧ t.dv s.ch = s.dv s.ch ∧ OnlyChannel s.ch s t ∧
      (h.note = 0 → t.mixer s.ch = s.mixer s.ch) ∧
      ∀ (i : Instrument) (b : SampleBody), h.note ≠ 0 →
        s.song.instrumentAt (resolvedNumber s.song h.inst (s.voice s.ch).inst).toNat = some i → i.body = .sample b →
        let v := resolvedVoice s.song ⟨h.arpidx, h.note, h.inst, s.cfg.codes.sampleOffset, arg⟩ (s.voice s.ch)
        let p := periodOf s.cfg v.ft h.note.toNat
        let m := t.mixer s.ch
        let off := 256 * arg.toNat
        let b0 := 2 * b.start.toNat
        let len := 2 * b.len.toNat
        m.curOff.toNat = (if off < len then b0 + off else b0 + len) ∧
        m.curLen.toNat = (if off < len then len - off else 0) ∧
        m.loopOff.toNat = b0 + 2 * b.loopStart.toNat ∧ m.loopLen.toNat = 2 * b.loopLen.toNat ∧
        m = { s.mixer s.ch with
          phase := 0, curWave := i.wave, curOff := m.curOff, curLen := m.curLen
          loopWave := i.wave, loopOff := m.loopOff, loopLen := m.loopLen
          loopValid := decide (s.cfg.loopValidMinWords ≤ b.loopLen.toNat)
          active := decide (0 < b.len.toNat ∨ s.cfg.loopValidMinWords ≤ b.loopLen.toNat) } ∧
        t.voice s.ch = { v with
          note := h.note, period := p, isSynth := false, vibPos := 0, vibSign := false
          arpPos := 0, arpCtr := 0, arpOut := p, arpOn := false } ∧
        t.synth s.ch = (if s.cfg.adsrOnSamples
          then { s.synth s.ch with
            svol := BitVec.ofNat 7 (min i.adsrStart.toNat 127), add := i.adsrAdd, endLevel := i.adsrEnd, sub := i.adsrSub
            env := .add }
          else { s.synth s.ch with svol := 127, env := .done })

/-- ARP, at its row load, runs ArpSetup on the latched cell. With a nonzero argument the list 0, x, y is put in force; with
argument 0 and a table index, the entry's nibbles before the end marker, or no arpeggio if there are none; the empty cell and
every other effect put the arpeggio off. A list put in force starts at cursor 0, counter 0 and the base period where no
arpeggio was on, and otherwise keeps all three, but for a cursor past the new list, which becomes 0. An ARP cell with a note
triggers first (`NoteTriggersASampleInstrument` and the statements after it); one without a note is ArpSetup alone
(45_arpeggio.md R433, R434; 41_row_load.md R252). -/
def Obligations.ArpSetupPutsTheOffsetListInForce : Prop :=
  (∀ (c : Channel) (s : State),
    let v := s.voice c
    let nibbles := (s.song.arpNibbles v.arpidx.toNat).takeWhile (fun n => n != s.cfg.arpEnd)
    let inForce := fun l : List Nibble => { v with
      arpOn := true, arpList := arpListOf l
      arpPos := if v.arpOn = true ∧ v.arpPos.toNat < l.length then v.arpPos else 0
      arpCtr := if v.arpOn then v.arpCtr else 0
      arpOut := if v.arpOn then v.arpOut else v.period }
    let t := arpSetup c s
    let w := t.voice c
    OnlyChannel c s t ∧ t = s.setVoice c w ∧
    (v.fx = s.cfg.codes.arp → v.arg ≠ 0 → w = inForce [0, argX v.arg, argY v.arg]) ∧
    (v.fx = s.cfg.codes.arp → v.arg = 0 → v.arpidx ≠ 0 → nibbles ≠ [] → w = inForce nibbles) ∧
    (v.fx = s.cfg.codes.arp → v.arg = 0 → v.arpidx ≠ 0 → nibbles = [] → w = { v with arpOn := false }) ∧
    (v.fx ≠ s.cfg.codes.arp ∨ (v.arg = 0 ∧ v.arpidx = 0) → w = { v with arpOn := false })) ∧
  ∀ (h : Head) (x y : Nibble) (s : State), s.cfg.codes.wf = true → s.seq.first = true → h.note = 0 →
    (h.inst = 0 → exec (.arp h x y) s = .next (arpSetup s.ch (s.setVoice s.ch
      { s.voice s.ch with fx := s.cfg.codes.arp, arg := argOf x y, arpidx := h.arpidx }))) ∧
    (1 ≤ h.inst.toNat → h.inst.toNat ≤ s.song.numInstr →
      exec (.arp h x y) s = .next (arpSetup s.ch (s.setVoice s.ch
        (resolvedVoice s.song ⟨h.arpidx, h.note, h.inst, s.cfg.codes.arp, argOf x y⟩ (s.voice s.ch)))))

/-! ## The per-tick engines -/

/-- An arpeggio at speed 1 emits note + l[0], note + l[1], …, wrapping on the sentinel, one a tick, for every list of 1 to 8
offsets (45_arpeggio.md R436). -/
def Obligations.ArpeggioCyclesThroughItsOffsets : Prop :=
  ∀ (cfg : Config) (v : Voice) (l : List Nibble), l ≠ [] → l.length ≤ 8 →
    v.arpOn = true → v.period ≠ 0 → v.arpSpeed = 1 → v.arpList = arpListOf l → v.arpPos = 0 →
    ∀ n : Nat,
      let w := (stepArpeggio cfg)^[n + 1] v
      w.arpOut = periodOf cfg v.ft ((v.note.toNat : Int) + (l.getD (n % l.length) 0).toNat) ∧
      w.arpPos.toNat = (n + 1) % l.length ∧ w.period = v.period

/-- ArpeggioTick holds the previous period until the counter reaches the arpeggio speed (45_arpeggio.md R436). -/
def Obligations.ArpeggioHoldsBelowItsSpeed : Prop :=
  ∀ (c : Channel) (s : State),
    let v := s.voice c
    arpeggioTick c s =
      if v.arpOn = false ∨ v.period = 0 then s
      else if v.arpCtr.toNat + 1 < v.arpSpeed.toNat then
        s.setVoice c { v with arpCtr := BitVec.ofNat 8 (v.arpCtr.toNat + 1) }
      else s.setVoice c { v with
        arpCtr := 0
        arpOut := periodOf s.cfg v.ft ((v.note.toNat : Int) + (arpEntryAt v.arpList v.arpPos.toNat).toInt)
        arpPos := if (arpEntryAt v.arpList (v.arpPos.toNat + 1)).toInt < 0 then 0
          else BitVec.ofNat 4 (v.arpPos.toNat + 1) }

/-- ComposePeriod: the held arpeggio period or the base period, plus the tick's vibrato delta, clamped to [103, 65535]; 0
while there is no pitch; the base period stays (45_arpeggio.md R440). -/
def Obligations.OutputPeriodIsComposed : Prop :=
  ∀ (c : Channel) (s : State),
    let v := s.voice c
    let base : Int := if v.arpOn then v.arpOut.toNat else v.period.toNat
    ∃ p : BitVec 16, composePeriod c s = s.setVoice c { v with outPeriod := p } ∧
      (p.toNat : Int) = if v.period = 0 then 0 else max 103 (min 65535 (base + s.dv c))

/-- EnvelopeStep: the ADD, SUB and DONE transitions, in the integers; SynthTick runs it first on a synth voice, and on a sample
voice only under ADSR_ON_SAMPLES (46_synth_engine.md R460, R462). -/
def Obligations.EnvelopeRampsAndStops : Prop :=
  ∀ (c : Channel) (s : State),
    let y := s.synth c
    let z := (envelopeStep c s).synth c
    (y.env = .add → y.add = 0 → z = { y with svol := 127, env := .done }) ∧
    (y.env = .add → y.add ≠ 0 → z = { y with svol := z.svol, env := z.env } ∧
      z.svol.toNat = min 127 (y.svol.toNat + y.add.toNat) ∧ (z.env = .sub ↔ z.svol.toNat = 127) ∧ z.env ≠ .done) ∧
    (y.env = .sub → y.svol.toNat ≤ y.endLevel.toNat → z = { y with env := .done }) ∧
    (y.env = .sub → y.endLevel.toNat < y.svol.toNat → z = { y with svol := z.svol, env := z.env } ∧
      z.svol.toNat = max y.endLevel.toNat (y.svol.toNat - y.sub.toNat) ∧
      (z.env = .done ↔ z.svol.toNat = y.endLevel.toNat) ∧ z.env ≠ .add) ∧
    (y.env = .done → z = y) ∧
    envelopeStep c s = s.setSynth c z ∧
    ((s.voice c).isSynth = true → synthTick c s = instrVibrato c (waveStep c (envelopeStep c s))) ∧
    ((s.voice c).isSynth = false → synthTick c s = if s.cfg.adsrOnSamples then envelopeStep c s else s)

/-- WaveStep on a channel: frozen at speed 0, counting below the speed, no cycling on an empty window, else one cursor step
with the reset of the loop mode, and the mixer's loop region on the wave under the cursor. A cursor computed past 255 is a
free value in the 8-bit register (log entry 8); everything else is the same then (46_synth_engine.md R480). -/
def Obligations.WaveStepMovesTheCursorAndTheLoopRegion : Prop :=
  ∀ (c : Channel) (s : State),
    let y := s.synth c
    let lo : Int := y.wlStart.toNat
    let hi : Int := (y.wlStart.toNat : Int) + y.wlLen.toNat - 1
    let n : Int := (y.widx.toNat : Int) + (if y.wdir then -1 else 1)
    let out := n < lo ∨ hi < n
    let moved : Int := if ¬ out then n else match y.wmode with
      | .normal => lo
      | .backward => hi
      | .pingpong => y.widx.toNat
    let t := waveStep c s
    let z := t.synth c
    OnlyChannel c s t ∧ t.voice c = s.voice c ∧ t.scope c = s.scope c ∧ t.dv c = s.dv c ∧
    (y.wspeed = 0 → t = s) ∧
    (y.wspeed ≠ 0 → y.wctr.toNat + 1 < y.wspeed.toNat → t = s.setSynth c { y with wctr := y.wctr + 1 }) ∧
    (y.wspeed ≠ 0 → y.wspeed.toNat ≤ y.wctr.toNat + 1 → y.wlLen = 0 → t = s.setSynth c { y with wctr := 0 }) ∧
    (y.wspeed ≠ 0 → y.wspeed.toNat ≤ y.wctr.toNat + 1 → y.wlLen ≠ 0 →
      z = { y with wctr := 0, widx := z.widx, wdir := z.wdir } ∧
      (moved < 256 → (z.widx.toNat : Int) = moved) ∧
      z.wdir = (if ¬ out then y.wdir else match y.wmode with
        | .normal => y.wdir
        | .backward => true
        | .pingpong => !y.wdir) ∧
      t.mixer c = { s.mixer c with
        loopWave := y.wave, loopOff := BitVec.ofNat 32 (z.widx.toNat * y.wlen.toNat)
        loopLen := BitVec.ofNat 32 y.wlen.toNat })

/-- InstrVibrato: the delay counts down without vibrato; then the output period moves by the signed table delta, clamped, and
the position advances (46_synth_engine.md R490). -/
def Obligations.InstrumentVibratoWaitsThenMoves : Prop :=
  ∀ (c : Channel) (s : State),
    let y := s.synth c
    let v := s.voice c
    let entry := ((s.cfg.vibTable.toList.getD (min y.vwave.toNat 2) (Vector.replicate 32 0)).toList.getD y.vpos.toNat 0).toNat
    let delta : Int := (entry * y.vdepth.toNat / 128 : Nat)
    let p := y.vpos.toNat + y.vspeed.toNat
    delta ≤ 508 ∧
    instrVibrato c s =
      if 0 < y.vdelay.toNat then s.setSynth c { y with vdelay := BitVec.ofNat 8 (y.vdelay.toNat - 1) }
      else if v.outPeriod = 0 then s
      else (s.setVoice c { v with
          outPeriod := BitVec.ofInt 16 (max 103 (min 65535 ((v.outPeriod.toNat : Int) + (if y.vsign then -delta else delta)))) }).setSynth
          c { y with vpos := BitVec.ofNat 5 p, vsign := if p / 32 % 2 = 1 then !y.vsign else y.vsign }

/-- MixerUpdate: the increment PAL_CLOCK / (period * rate), 0 with no pitch, and the gain volume * (svol >> k) * track_vol
over 64 * 128 * 64, with k the shift of the variant; nothing else changes (47_mixer.md R520, R545). -/
def Obligations.MixerUpdateSetsIncrementAndGain : Prop :=
  ∀ (c : Channel) (s : State),
    let v := s.voice c
    let k := match s.song.variant with
      | .aon4 => s.cfg.svolShift4
      | .aon8 => s.cfg.svolShift8
    mixerUpdate c s = s.setMixer c { s.mixer c with
      inc := if v.outPeriod.toNat = 0 then 0
        else (s.cfg.palClock : Rat) / ((v.outPeriod.toNat : Rat) * (s.cr.sampleRate.toNat : Rat))
      gain := (v.volume.toNat : Rat) * (((s.synth c).svol.toNat / 2 ^ k : Nat) : Rat) * (v.trackVol.toNat : Rat) / 524288 }

/-! ## The mixer -/

/-- MixChannel: a channel that does not play answers 0 and keeps its state; one whose region is exhausted with no valid loop
stops and answers 0; one inside its region, or with a valid loop to enter (at the excess of the phase, or at its start where
that does not fit), reads the byte at the integer part of the phase, advances the phase and answers the scaled sample; a read
outside the waveform gives 0 and OOB_READ (47_mixer.md R530, R533, R536; 20_memory.md R116). -/
def Obligations.MixChannelReadsTheByteUnderThePhase : Prop :=
  ∀ (c : Channel) (s : State),
    let m := s.mixer c
    let r := mixChannel c s
    let excess := m.phase - (m.curLen.toNat : Rat)
    (m.active = false → r = (s, 0)) ∧
    (m.active = true → (m.curLen.toNat : Rat) ≤ m.phase → m.loopValid = false →
      r = (s.setMixer c { m with active := false }, 0)) ∧
    (m.active = true → m.phase < (m.curLen.toNat : Rat) ∨ m.loopValid = true →
      let e := if m.phase < (m.curLen.toNat : Rat) then m else { m with
        curWave := m.loopWave, curOff := m.loopOff, curLen := m.loopLen
        phase := if excess < (m.loopLen.toNat : Rat) then excess else 0 }
      let moved := s.setMixer c { e with phase := e.phase + m.inc }
      match s.song.waveAt e.curWave.toNat (e.curOff.toNat + e.phase.floor.toNat) with
      | some b => r = (moved, (b.toInt : Rat) / 128 * m.gain)
      | none => r = (flag .oobRead moved, 0))

/-- RegionEnd: without a valid loop the channel stops; with one the phase keeps its excess over the old region, the loop
region becomes current, and an excess that does not fit restarts the loop; then the phase is inside the region (47_mixer.md
R533). -/
def Obligations.RegionEndEntersTheLoopOrStops : Prop :=
  ∀ m : Mixer,
    (m.loopValid = false → regionEnd m = { m with active := false }) ∧
    (m.loopValid = true →
      let x := m.phase - (m.curLen.toNat : Rat)
      regionEnd m = { m with
        curWave := m.loopWave, curOff := m.loopOff, curLen := m.loopLen
        phase := if x < (m.loopLen.toNat : Rat) then x else 0 } ∧
      (0 < m.loopLen.toNat → (regionEnd m).phase < ((regionEnd m).curLen.toNat : Rat)))

/-- The output of a frame is bounded: |L| and |R| are at most N_CH / 2 * (127/128), for every stereo mix (47_mixer.md R552). -/
def Obligations.FrameOutputIsBounded : Prop :=
  ∀ s : State, Inv s →
    let f := (mixFrame s).2
    |f.1| ≤ (s.nch : Rat) / 2 * (127 / 128) ∧ |f.2| ≤ (s.nch : Rat) / 2 * (127 / 128)

/-- MixFrame: L and R are the sums of the channels' samples times their pan gains over the channels of the song in order,
neither clipped nor divided; each channel's mixer moves on as MixChannel says; its sample goes to its scope exactly when
SCOPE_EN is set; OOB_READ is set by a channel that reads outside; every other STATUS bit and everything else stay. ScopeWrite
stores the sample at the write index and advances the index modulo SCOPE_LEN; nothing else changes (47_mixer.md R552, R556). -/
def Obligations.MixFrameSumsTheChannelsAndFillsTheScopes : Prop :=
  (∀ s : State,
    let t := (mixFrame s).1
    let sample := fun c => (mixChannel c s).2
    (mixFrame s).2 = ((s.channels.map (fun c => sample c * (s.mixer c).panL)).sum,
      (s.channels.map (fun c => sample c * (s.mixer c).panR)).sum) ∧
    (∀ c ∈ s.channels, t.mixer c = (mixChannel c s).1.mixer c ∧
      t.scope c = (if s.cr.scopeEn then (scopeWrite c (sample c) s).scope c else s.scope c) ∧
      t.voice c = s.voice c ∧ t.synth c = s.synth c ∧ t.dv c = s.dv c) ∧
    (∀ c, c ∉ s.channels → t.chan c = s.chan c) ∧
    flagged .oobRead t = (flagged .oobRead s || s.channels.any (fun c => flagged .oobRead (mixChannel c s).1)) ∧
    (∀ k, k ≠ 2 → t.cr.status.getLsbD k = s.cr.status.getLsbD k) ∧
    KeepsHost s t ∧ t.seq = s.seq ∧ t.out = s.out ∧ t.ch = s.ch) ∧
  ∀ (c : Channel) (o : Rat) (s : State), (s.scope c).wp < (s.scope c).ring.length →
    let t := scopeWrite c o s
    (t.scope c).ring[(s.scope c).wp]? = some o ∧
    (∀ j, j ≠ (s.scope c).wp → (t.scope c).ring[j]? = (s.scope c).ring[j]?) ∧
    (t.scope c).wp = ((s.scope c).wp + 1) % s.cfg.scopeLen ∧
    t = s.setScope c (t.scope c)

/-! ## The sequencer -/

/-- NextPosition: the delay, loop point and loop counter are reset, the row is the break row or 0, the position is the jump
target or the next one, and a position past the end wraps to RESTART, sets SONG_END and counts the loop, saturating; every
other STATUS bit and everything else stay (40_sequencer.md R214). -/
def Obligations.NextPositionWrapsToRestart : Prop :=
  ∀ s : State,
    let q := s.seq
    let p := if q.jmp then q.jmpPos.toNat else q.pos.toNat + 1
    let ended := s.song.numPositions ≤ p
    let t := nextPosition s
    t.seq = { q with
      delay := BitVec.ofInt 8 (-1), loopRow := 0, loopCnt := 0
      row := if q.brk then q.brkRow else 0
      pos := if ended then s.song.restart else BitVec.ofNat 8 p
      loops := if ended then BitVec.ofNat 32 (min (q.loops.toNat + 1) (2 ^ 32 - 1)) else q.loops } ∧
    flagged .songEnd t = (flagged .songEnd s || decide ended) ∧
    (∀ k, k ≠ 3 → t.cr.status.getLsbD k = s.cr.status.getLsbD k) ∧
    t.cr = { s.cr with status := t.cr.status } ∧ t.loaded = s.loaded ∧
    t.chans = s.chans ∧ t.song = s.song ∧ t.cfg = s.cfg ∧ t.out = s.out ∧ t.ch = s.ch

/-- After the cells of a row: a loop beats a jump or break and goes to the loop point at the same position; a jump or a break
changes the position; else the next row, and after row 63 the next position (40_sequencer.md R210, R218). -/
def Obligations.RowEndChoosesTheNextRow : Prop :=
  ∀ s : State,
    endRow s =
      if s.seq.loopFlag = true then s.setSeq { s.seq with row := s.seq.loopRow }
      else if s.seq.jmp = false ∧ s.seq.brk = false ∧ s.seq.row.toNat < 63 then
        s.setSeq { s.seq with row := s.seq.row + 1 }
      else nextPosition s

/-- A row tick with an armed delay counts the delay down and runs every channel's latched cell with S.tick = 0 and S.first = 0:
no row is loaded and the row stays (40_sequencer.md R210, R211). -/
def Obligations.ArmedDelayStallsTheRow : Prop :=
  ∀ s : State, 0 ≤ s.seq.delay.toInt →
    rowAdvance s = runLatched (s.setSeq { s.seq with delay := s.seq.delay - 1 }) ∧
    (s.seq.first = false → s.seq.tick = 0 → ∃ t, rowAdvance s = .next t ∧
      t.seq.row = s.seq.row ∧ t.seq.pos = s.seq.pos ∧ t.seq.curRow = s.seq.curRow ∧
      ∀ c, (t.voice c).period = (s.voice c).period ∧ t.mixer c = s.mixer c)

/-- A STEP RUNS THE DECODED INSTRUCTIONS of a row: when a frame is due a row tick and w c are the cells at the program counter,
the step reloads the countdown, clears the tick's deltas, S.tick and the row's flags, sets S.first, latches the playing row;
then it is exec of the instruction each cell decodes to (a cell with a reserved code runs as 30_encoding.md R160 says) on its
channel in order, the row's end, the tick's phases, the countdown, and the mixed frame (40_sequencer.md R202, R204, R210,
R213). -/
def Obligations.StepRunsTheRowsDecodedCells : Prop :=
  ∀ (s : State) (w : Channel → CellWord) (pat : Byte),
    s.loaded = true → s.seq.acc.toInt ≤ 0 → s.seq.speed.toNat ≤ s.seq.tick.toNat + 1 → s.seq.delay.toInt < 0 →
    s.song.posAt s.seq.pos.toNat = some pat →
    (∀ c ∈ s.channels, s.song.cellAt pat.toNat s.seq.row.toNat c.val = some (w c)) →
    let start := (withoutDeltas s).setSeq { s.seq with
      acc := BitVec.ofInt 32 (s.seq.acc.toInt + s.seq.spt.toNat)
      tick := 0, first := true, curPos := s.seq.pos, curRow := s.seq.row, jmp := false, brk := false, loopFlag := false }
    step s = andThen
      (runChannels (fun t => match decode s.cfg.codes (w t.ch) with
          | .instr i => exec i t
          | .reservedEffect f => runReserved f t
          | .truncated => .next t) s.channels start)
      (fun t =>
        let u := forChannels mixerUpdate (forChannels synthTick (forChannels composePeriod
          (forChannels arpeggioTick (endRow t))))
        let r := mixFrame (u.setSeq { u.seq with acc := BitVec.ofInt 32 (u.seq.acc.toInt - 1) })
        .next { r.1 with out := r.1.out ++ [r.2] })

/-- A STEP RUNS THE LATCHED INSTRUCTIONS on a tick that loads no row, which is a tick inside a row or a row tick that an armed
pattern delay stalls: the countdown reloaded, the tick's deltas and S.first cleared, S.tick advanced, or S.tick 0 and the
delay counted down on the stalled row tick, no row loaded; a latched reserved code does nothing
(40_sequencer.md R202, R204, R206, R210, R211, R213). -/
def Obligations.StepRunsTheLatchedCells : Prop :=
  ∀ s : State,
    s.loaded = true → s.seq.acc.toInt ≤ 0 → s.seq.tick.toNat + 1 < s.seq.speed.toNat ∨ 0 ≤ s.seq.delay.toInt →
    let inRow := s.seq.tick.toNat + 1 < s.seq.speed.toNat
    let start := (withoutDeltas s).setSeq { s.seq with
      acc := BitVec.ofInt 32 (s.seq.acc.toInt + s.seq.spt.toNat)
      tick := if inRow then BitVec.ofNat 8 (s.seq.tick.toNat + 1) else 0
      delay := if inRow then s.seq.delay else s.seq.delay - 1
      first := false }
    step s = andThen
      (runChannels (fun t => match classify t.cfg.codes (latchedFields t) with
          | .instr i => exec i t
          | _ => .next t) s.channels start)
      (fun t =>
        let u := forChannels mixerUpdate (forChannels synthTick (forChannels composePeriod (forChannels arpeggioTick t)))
        let r := mixFrame (u.setSeq { u.seq with acc := BitVec.ofInt 32 (u.seq.acc.toInt - 1) })
        .next { r.1 with out := r.1.out ++ [r.2] })

/-- Where `withFetchWord` puts a word, the next step fetches it: a row tick is due and the cell of channel 0 is the word
(40_sequencer.md R210; log entry 4 says what the placing stands for). -/
def Obligations.PlacedFetchWordIsFetchedNext : Prop :=
  ∀ (s : State) (w : CellWord), s.song.pat.wf = true →
    let t := s.withFetchWord 32 w.toNat
    t.loaded = true ∧ tickDue t.seq = true ∧ rowTickDue t.seq = true ∧ delayArmed t.seq = false ∧
    t.song.cellAt (posList t t.seq.pos).1.toNat t.seq.row.toNat 0 = some w

/-- A frame before the countdown runs out runs no tick: it is the countdown less 1, MixFrame
(`MixFrameSumsTheChannelsAndFillsTheScopes` says what that does to M, SC, STATUS and the frame) and the mixed frame appended to
the output. So n such frames leave the rest of the sequencer, the voices and the synth banks alone (40_sequencer.md R202, R203;
47_mixer.md R552, R553). -/
def Obligations.FramesBetweenTicksCountDownAndMix : Prop :=
  (∀ s : State, s.loaded = true → 0 < s.seq.acc.toInt →
    let r := mixFrame (s.setSeq { s.seq with acc := BitVec.ofInt 32 (s.seq.acc.toInt - 1) })
    step s = .next { r.1 with out := s.out ++ [r.2] }) ∧
  ∀ (n : Nat) (s : State), s.loaded = true → (n : Int) ≤ s.seq.acc.toInt →
    ∃ t, decodeFrames n s = .next t ∧
      t.seq = { s.seq with acc := BitVec.ofInt 32 (s.seq.acc.toInt - n) } ∧
      ∀ c, t.voice c = s.voice c ∧ t.synth c = s.synth c

/-! ## The whole machine -/

/-- Every instruction, with every operand and in every state, completes with a next state: nothing traps or stops. It changes
no parameter, no byte of song memory, no host register, no output; STATUS bits only grow; and the banks of every channel but
the running one stay (60_exceptions.md R580, R590; 10_state.md R40, R82, R85). -/
def Obligations.EveryInstructionCompletesOnItsOwnChannel : Prop :=
  ∀ (i : Instr) (s : State), ∃ t, exec i s = .next t ∧ KeepsHost s t ∧ t.out = s.out ∧ t.ch = s.ch ∧
    (∀ d, d ≠ s.ch → t.chan d = s.chan d) ∧
    (∀ a, t.song.pat.read a = s.song.pat.read a ∧ t.song.pos.read a = s.song.pos.read a ∧
      t.song.arp.read a = s.song.arp.read a) ∧
    ∀ k a, t.song.waveAt k a = s.song.waveAt k a

/-- Only POSITION_JUMP, PATTERN_BREAK, SET_SPEED, PATTERN_LOOP and PATTERN_DELAY write the sequencer state, the last two under
their own row or as an EXTRA cell with their sub-code; every other instruction, and an EXTRA cell with another sub-code or a
reserved one, keeps all of it (43_every_tick_effects.md R352, R356, R358; 44_extra_effects.md R400, R406, R410; 30_encoding.md
R161). -/
def Obligations.OnlyFlowEffectsWriteTheSequencer : Prop :=
  ∀ (i : Instr) (s t : State), exec i s = .next t → t.seq ≠ s.seq →
    match i with
    | .positionJump _ _ | .patternBreak _ _ | .setSpeed _ _ | .patternLoop _ _ | .patternDelay _ _ => True
    | .extra _ x _ => x = s.cfg.codes.patternLoop ∨ x = s.cfg.codes.patternDelay
    | _ => False

/-- While a song is held every step gives a next state with exactly one more output frame, appended, and keeps the parameters,
the song and the host's registers (40_sequencer.md R222; 47_mixer.md R553; 10_state.md R82, R85). -/
def Obligations.EveryStepEmitsOneFrame : Prop :=
  ∀ s : State, s.loaded = true →
    ∃ t f, step s = .next t ∧ t.out = s.out ++ [f] ∧ KeepsHost s t

/-- Every step keeps every register at a legal value (10_state.md R31 to R71, R82, R83; 40_sequencer.md R216), and keeps the
mixer's gains those of the registers they are computed from (47_mixer.md R520, R545). -/
def Obligations.EveryStepKeepsTheLegalState : Prop :=
  ∀ s t : State, step s = .next t → (Inv s → Inv t) ∧ (GainsFollow s → GainsFollow t)

/-- The state after reset is legal and its gains follow its registers. Which song it holds is the model's choice (log
entry 4). -/
def Obligations.ResetStateIsLegal : Prop :=
  Inv State.reset ∧ GainsFollow State.reset

/-- CREATE of a song that meets the load preconditions holds that song, with RESTART clamped to 0 where it was out of range,
puts CR at its reset column and every register at START's reset values (`ResetRegistersHaveTheirValues` writes them out), and
the state is legal. A song that breaks a load precondition is rejected and no song is then held (60_exceptions.md R582, R595;
70_reset_and_hazards.md R620, R630; 20_memory.md R105). The model's choices: a song of 256 waveforms is held (log entry 19); the
answer to a rejected song is BOUNDS (log entry 13); that an instrument's volume above 64 loads, and what `Song.wf` refuses
beyond R630's conditions, is log entry 20; the output stream is kept (log entry 11). -/
def Obligations.CreateHoldsTheSongOrRejectsIt : Prop :=
  ∀ (g : Song) (s : State),
    (g.clampRestart.wf = true →
      ∃ t, hostOp (.create (.song g)) s = .next (t, .done) ∧ t.loaded = true ∧
        t.song = { g with restart := if g.restart.toNat < g.numPositions then g.restart else 0 } ∧
        t.cr = { scopeEn := false, status := 0, sampleRate := 48000, stereoMix := 0 } ∧ t.seq = Seq.reset 48000 ∧
        (∀ c ∈ t.channels,
          t.chan c = Chan.reset s.cfg.scopeLen (panGains g.variant 0 c).1 (panGains g.variant 0 c).2) ∧
        t.cfg = s.cfg ∧ t.out = s.out ∧ GainsFollow t ∧ (s.cfg.wf = true → Inv t)) ∧
    (g.clampRestart.wf = false →
      ∃ t, hostOp (.create (.song g)) s = .next (t, .failure .bounds) ∧ t.loaded = false) ∧
    (g.numPositions = 0 ∨ 256 < g.numPositions ∨ g.numPatterns = 0 ∨
        (∃ p < g.numPositions, g.numPatterns ≤ (g.pos.read p).toNat) ∨
        (∃ i ∈ g.instruments, g.numWaves ≤ i.wave.toNat) →
      g.clampRestart.wf = false)

/-! ## Reset and the host operations -/

/-- START puts the sequencer and the banks of every channel of the song at their reset values (`ResetRegistersHaveTheirValues`
writes each of them out), with the pan of the stereo mix, clears STATUS, and keeps the host's configuration; the first frame
after it is due a row tick (70_reset_and_hazards.md R620, R621; 10_state.md R31 to R71). The host operation START runs it while
a song is held, whatever the subsong (60_exceptions.md R595). That the output stream is kept is the model's choice (log entry
11), and so is the 0 of the tick's vibrato delta in `Chan.reset`, a field of the model's own (log entry 2). -/
def Obligations.StartResetsThePlayback : Prop :=
  ∀ (s : State),
    let t := startBlock s
    t.seq = { Seq.reset s.cr.sampleRate with spt := BitVec.ofNat 32 (s.cr.sampleRate.toNat / 50) } ∧
    (∀ c ∈ s.channels, t.chan c = Chan.reset s.cfg.scopeLen (panGains s.song.variant s.cr.stereoMix c).1
      (panGains s.song.variant s.cr.stereoMix c).2) ∧
    t.cr = { s.cr with status := 0 } ∧ t.song = s.song ∧ t.cfg = s.cfg ∧ t.loaded = s.loaded ∧ t.out = s.out ∧
    tickDue t.seq = true ∧ rowTickDue t.seq = true ∧ delayArmed t.seq = false ∧ t.seq.pos = 0 ∧ t.seq.row = 0 ∧
    (s.loaded = true → ∀ subsong, hostOp (.start subsong) s = .next (t, .done))

/-- Every register right after reset at the value the spec gives it: the sequencer's at any sample rate, the banks' at any pan
gains, and those of State.reset, the host's registers among them, with the pan L, R, R, L of AON4 (10_state.md R31 to R35, R41
to R46, R61 to R63, R68 to R71, R80, R83; 47_mixer.md R548, R549). State.reset holds a song of four channels; that the banks of
the channels 4 to 7, which it lacks, hold the same values with both pan gains 0 is the model's choice (log entry 4), and so are
the 0 of dv, a field of the model's own (log entry 2), and the empty output stream (log entry 11). -/
def Obligations.ResetRegistersHaveTheirValues : Prop :=
  (∀ rate : BitVec 32, Seq.reset rate = {
    pos := 0, row := 0, tick := 5, speed := 6, tempo := 125, spt := BitVec.ofNat 32 (rate.toNat / 50), acc := 0
    jmp := false, jmpPos := 0, brk := false, brkRow := 0, loopFlag := false, loopRow := 0, loopCnt := 0, delay := -1
    first := false, loops := 0, curPos := 0, curRow := 0 }) ∧
  (∀ (scopeLen : Nat) (panL panR : Rat), Chan.reset scopeLen panL panR = {
    v := {
      inst := 0, note := 0, ft := 0, isSynth := false, period := 0, outPeriod := 0, portaTarget := 0, portaSpeed := 0
      volume := 0, trackVol := 64, fx := 0, arg := 0, arpidx := 0, vibSpeed := 0, vibAmp := 0, vibPos := 0, vibSign := false
      arpList := #v[-1, -1, -1, -1, -1, -1, -1, -1, -1], arpPos := 0, arpCtr := 0, arpSpeed := 1, arpOut := 0, arpOn := false }
    y := {
      svol := 0, env := .done, add := 0, endLevel := 0, sub := 0, wave := 0, wlen := 0, widx := 0, wdir := false
      wlStart := 0, wlLen := 0, wmode := .normal, wspeed := 0, wctr := 0
      vdelay := 0, vspeed := 0, vdepth := 0, vwave := 0, vpos := 0, vsign := false }
    m := {
      active := false, curWave := 0, curOff := 0, curLen := 0, loopValid := false, loopWave := 0, loopOff := 0, loopLen := 0
      phase := 0, inc := 0, gain := 0, panL := panL, panR := panR }
    sc := { ring := List.replicate scopeLen 0, wp := 0 }
    dv := 0 }) ∧
  State.reset.seq = Seq.reset 48000 ∧ State.reset.seq.spt = 960 ∧
  (∀ c : Channel, State.reset.chan c =
    Chan.reset 1024 (if c = 0 ∨ c = 3 then 1 else 0) (if c = 1 ∨ c = 2 then 1 else 0)) ∧
  State.reset.cr = { scopeEn := false, status := 0, sampleRate := 48000, stereoMix := 0 } ∧ State.reset.out = []

/-- DECODE(n) produces exactly n frames, appended to the output stream, and reports them with finished = (S.loops > 0). Time
moves by DECODE alone: no other operation produces a frame, and between the operations all state is kept, so one that is not
CREATE, START or DECODE leaves S as it was but for the tick length S.spt, and leaves every voice, synth bank, scope and phase;
READ, CELL, SCOPE and METADATA leave the whole state (60_exceptions.md R595, R597, R605, R606; 47_mixer.md R553). That START and
CREATE keep the frames of the output stream is the model's choice (log entry 11). -/
def Obligations.DecodeAloneProducesFrames : Prop :=
  (∀ (n : Nat) (s : State), s.loaded = true →
    ∃ t fs, hostOp (.decode n) s = .next (t, .frames n (decide (0 < t.seq.loops.toNat))) ∧
      t.out = s.out ++ fs ∧ fs.length = n ∧ KeepsHost s t) ∧
  ∀ (op : HostOp) (s : State), (∀ n, op ≠ .decode n) →
    ∃ t r, hostOp op s = .next (t, r) ∧ t.out = s.out ∧
      match op with
      | .create _ | .start _ | .decode _ => True
      | .setSampleRate _ | .write _ _ =>
        t.seq = { s.seq with spt := t.seq.spt } ∧ t.song = s.song ∧ t.cfg = s.cfg ∧ t.loaded = s.loaded ∧
        ∀ c, t.voice c = s.voice c ∧ t.synth c = s.synth c ∧ t.scope c = s.scope c ∧ (t.mixer c).phase = (s.mixer c).phase
      | .read _ | .cell _ _ _ | .scope _ | .metadata => t = s

/-- Splitting a DECODE gives the same output stream and the same end state (70_reset_and_hazards.md R642; 47_mixer.md R557). -/
def Obligations.DecodeMayBeSplit : Prop :=
  ∀ (a b : Nat) (s t u : State) (p q : HostReply),
    hostOp (.decode a) s = .next (t, p) → hostOp (.decode b) t = .next (u, q) → s.loaded = true →
      ∃ r, hostOp (.decode (a + b)) s = .next (u, r)

/-- With no song held a step and every operation but CREATE are refused and change nothing; a failed CREATE reports the
loader's code and leaves no song (60_exceptions.md R582, R596). -/
def Obligations.NothingRunsWithoutASong : Prop :=
  (∀ (op : HostOp) (s : State), s.loaded = false → (∀ r, op ≠ .create r) →
    hostOp op s = .next (s, .refused) ∧ step s = .refused .noSong) ∧
  ∀ (e : LoadFailure) (s : State),
    ∃ t, hostOp (.create (.failed e)) s = .next (t, .failure e) ∧ t.loaded = false ∧ 1 ≤ e.code ∧ e.code ≤ 6

/-- WRITE SAMPLE_RATE ignores an illegal rate; a legal one recomputes the tick length and every channel's increment, keeps
the countdown, and keeps every gain that follows its registers (as every step keeps it, `EveryStepKeepsTheLegalState`). WRITE
STEREO_MIX saturates at 256 and recomputes the pan: 1 - m/2 on a channel's own side and m/2 on the other, the sides L, R, R, L
of AON4 and L, L, R, R, R, R, L, L of AON8. WRITE CTRL writes SCOPE_EN. Everything else stays. The host operations WRITE and
SET_SAMPLE_RATE do this while a song is held (60_exceptions.md R595, R597; 47_mixer.md R548, R549). -/
def Obligations.RegisterWritesTakeEffectAtOnce : Prop :=
  ∀ (v : BitVec 32) (s : State),
    (v.toNat < 8000 ∨ 192000 < v.toNat → writeRegister 0x0C v s = s) ∧
    (8000 ≤ v.toNat → v.toNat ≤ 192000 →
      let t := writeRegister 0x0C v s
      t.cr = { s.cr with sampleRate := v } ∧
      t.seq = { s.seq with spt := BitVec.ofNat 32 (v.toNat / (s.seq.tempo.toNat * 2 / 5)) } ∧ OnlyPlayback s t ∧
      (∀ c ∈ s.channels, t.voice c = s.voice c ∧ t.synth c = s.synth c ∧ t.scope c = s.scope c ∧ t.dv c = s.dv c ∧
        t.mixer c = { s.mixer c with inc := incOf s.cfg v (s.voice c).outPeriod, gain := (t.mixer c).gain }) ∧
      (GainsFollow s → ∀ c ∈ s.channels, (t.mixer c).gain = (s.mixer c).gain)) ∧
    (let t := writeRegister 0x10 v s
     let m : Rat := (min v.toNat 256 : Nat) / 256
     t.cr = { s.cr with stereoMix := BitVec.ofNat 9 (min v.toNat 256) } ∧ t.seq = s.seq ∧ OnlyPlayback s t ∧
     ∀ c ∈ s.channels,
       let left : Prop := match s.song.variant with
         | .aon4 => c = 0 ∨ c = 3
         | .aon8 => c = 0 ∨ c = 1 ∨ c = 6 ∨ c = 7
       t.voice c = s.voice c ∧ t.synth c = s.synth c ∧ t.scope c = s.scope c ∧ t.dv c = s.dv c ∧
       (left → t.mixer c = { s.mixer c with panL := 1 - m / 2, panR := m / 2 }) ∧
       (¬ left → t.mixer c = { s.mixer c with panL := m / 2, panR := 1 - m / 2 })) ∧
    writeRegister 0x04 v s = { s with cr := { s.cr with scopeEn := v.getLsbD 0 } } ∧
    (∀ offset, offset ≠ 0x04 → offset ≠ 0x0C → offset ≠ 0x10 → writeRegister offset v s = s) ∧
    (s.loaded = true → (∀ offset, hostOp (.write offset v) s = .next (writeRegister offset v s, .done)) ∧
      hostOp (.setSampleRate v) s = .next (writeRegister 0x0C v s, .done))

/-- READ shows the registers of the map, and the latched row for POSITION, PATTERN and ROW; channel registers of channels the
song does not have read 0 (10_state.md R80, R83). While a song is held the host operations READ, CELL, SCOPE and METADATA
answer these registers, the cell's word, the scope ring and the counts, or not found, and change nothing (60_exceptions.md
R583, R595; 20_memory.md R102, R103). -/
def Obligations.ReadShowsTheRegisterMap : Prop :=
  ∀ s : State,
    (readRegister 0x00 s).toNat = s.nch ∧ (readRegister 0x04 s).toNat = (if s.cr.scopeEn then 1 else 0) ∧
    readRegister 0x08 s = s.cr.status ∧ readRegister 0x0C s = s.cr.sampleRate ∧
    (readRegister 0x10 s).toNat = s.cr.stereoMix.toNat ∧ readRegister 0x14 s = s.seq.loops ∧
    (readRegister 0x18 s).toNat = s.seq.curPos.toNat ∧ (readRegister 0x20 s).toNat = s.seq.curRow.toNat ∧
    (readRegister 0x24 s).toNat = s.seq.speed.toNat ∧ (readRegister 0x28 s).toNat = s.seq.tempo.toNat ∧
    (∀ p, s.song.posAt s.seq.curPos.toNat = some p → (readRegister 0x1C s).toNat = p.toNat) ∧
    (∀ c : Channel,
      let live := c.val < s.nch
      let v := s.voice c
      (readRegister (0x40 + 16 * c.val) s).toNat = (if live then v.inst.toNat else 0) ∧
      (readRegister (0x44 + 16 * c.val) s).toNat = (if live then v.volume.toNat else 0) ∧
      (readRegister (0x48 + 16 * c.val) s).toNat = (if live then v.outPeriod.toNat else 0) ∧
      (readRegister (0x4C + 16 * c.val) s).toNat = (if live then v.fx.toNat * 256 + v.arg.toNat else 0)) ∧
    (s.loaded = true →
      (∀ offset, hostOp (.read offset) s = .next (s, .value (readRegister offset s))) ∧
      (∀ pat row ch,
        let a := 4 * ((pat * 64 + row) * s.nch + ch)
        let word := s.song.pat.read a ++ s.song.pat.read (a + 1) ++ s.song.pat.read (a + 2) ++ s.song.pat.read (a + 3)
        hostOp (.cell pat row ch) s =
          .next (s, if pat < s.song.numPatterns ∧ row < 64 ∧ ch < s.nch then .value word else .notFound)) ∧
      (∀ c : Channel, hostOp (.scope c.val) s =
        .next (s, if c.val < s.nch then .ring (s.scope c).ring (s.scope c).wp else .notFound)) ∧
      (∀ ch, 8 ≤ ch → hostOp (.scope ch) s = .next (s, .notFound)) ∧
      hostOp .metadata s = .next (s, .counts s.song.numPatterns s.song.instruments.length))
end

