-- ==== Sys2Proof/Laws/Memory.lean ====
section
/-! SUPPORT. The laws of song memory: a read after a write, and the canonical form under every memory operation. -/

namespace Sys2Proof.Machine

@[simp] theorem Memory.read_nil (a : Nat) : Memory.read [] a = unlistedByte := rfl

theorem Memory.read_cons (p : Host.Cell) (m : Memory) (x : Nat) :
    Memory.read (p :: m) x = if p.1 = x then p.2 else Memory.read m x := rfl

/-- The canonical form as a proposition. -/
theorem Memory.wf_iff (m : Memory) :
    m.wf = true ↔ List.Pairwise (fun p q : Host.Cell => p.1 < q.1) m ∧ ∀ p ∈ m, p.2 ≠ unlistedByte := by
  simp [Memory.wf]

/-- A memory with no listed address at or below x reads as unlisted at x. -/
theorem Memory.read_of_above (m : Memory) (x : Nat) (h : ∀ p ∈ m, x < p.1) : m.read x = unlistedByte := by
  induction m with
  | nil => rfl
  | cons p m ih =>
    have hp := h p (by simp)
    rw [Memory.read_cons, if_neg (by omega)]
    exact ih (fun q hq => h q (by simp [hq]))

theorem Memory.consCell_read (a x : Nat) (b : Byte) (m : Memory) (h : ∀ p ∈ m, a < p.1) :
    (Memory.consCell a b m).read x = if x = a then b else m.read x := by
  unfold Memory.consCell
  by_cases hb : b = unlistedByte
  · rw [if_pos hb]
    by_cases hx : x = a
    · subst hx; simp [Memory.read_of_above m x h, hb]
    · simp [hx]
  · rw [if_neg hb, Memory.read_cons]
    simp only [eq_comm]

/-- Reading after a write to a canonical memory. -/
theorem Memory.read_write (m : Memory) (a x : Nat) (b : Byte) (h : m.wf = true) :
    (m.write a b).read x = if x = a then b else m.read x := by
  rw [Memory.wf_iff] at h
  obtain ⟨hs, -⟩ := h
  induction m with
  | nil => exact Memory.consCell_read a x b [] (by simp)
  | cons p m ih =>
    obtain ⟨k, v⟩ := p
    obtain ⟨hk, hs⟩ := List.pairwise_cons.mp hs
    unfold Memory.write
    by_cases h1 : k < a
    · rw [if_pos h1, Memory.read_cons, Memory.read_cons, ih hs]
      by_cases hx : k = x
      · simp [hx, show x ≠ a by omega]
      · simp [hx]
    · rw [if_neg h1]
      by_cases h2 : k = a
      · subst h2
        rw [if_pos rfl, Memory.consCell_read k x b m hk, Memory.read_cons]
        by_cases hx : x = k
        · simp [hx]
        · simp [hx, Ne.symm hx]
      · rw [if_neg h2, Memory.consCell_read]
        intro q hq
        rcases List.mem_cons.mp hq with rfl | hq
        · simp only; omega
        · have := hk q hq; simp only at this; omega

theorem Memory.mem_consCell (a : Nat) (b : Byte) (m : Memory) (q : Host.Cell) (h : q ∈ Memory.consCell a b m) :
    (q = (a, b) ∧ b ≠ unlistedByte) ∨ q ∈ m := by
  unfold Memory.consCell at h
  split at h
  · exact .inr h
  · rename_i hb
    rcases List.mem_cons.mp h with rfl | h
    · exact .inl ⟨rfl, hb⟩
    · exact .inr h

theorem Memory.mem_write (m : Memory) (a : Nat) (b : Byte) (q : Host.Cell) (h : q ∈ m.write a b) :
    (q = (a, b) ∧ b ≠ unlistedByte) ∨ q ∈ m := by
  induction m with
  | nil => exact Memory.mem_consCell a b [] q h
  | cons p m ih =>
    obtain ⟨k, v⟩ := p
    unfold Memory.write at h
    split at h
    · rcases List.mem_cons.mp h with rfl | h
      · exact .inr (by simp)
      · rcases ih h with h | h
        · exact .inl h
        · exact .inr (by simp [h])
    · split at h
      · rcases Memory.mem_consCell _ _ _ _ h with h | h
        · exact .inl h
        · exact .inr (by simp [h])
      · exact Memory.mem_consCell _ _ _ _ h

theorem Memory.consCell_pairwise (a : Nat) (b : Byte) (m : Memory) (hs : List.Pairwise (fun p q : Host.Cell => p.1 < q.1) m)
    (h : ∀ p ∈ m, a < p.1) : List.Pairwise (fun p q : Host.Cell => p.1 < q.1) (Memory.consCell a b m) := by
  unfold Memory.consCell
  split
  · exact hs
  · exact List.pairwise_cons.mpr ⟨h, hs⟩

/-- A write keeps the canonical form. -/
theorem Memory.write_wf (m : Memory) (a : Nat) (b : Byte) (h : m.wf = true) : (m.write a b).wf = true := by
  rw [Memory.wf_iff] at h ⊢
  obtain ⟨hs, hb⟩ := h
  refine ⟨?_, fun q hq => ?_⟩
  · clear hb
    induction m with
    | nil => exact Memory.consCell_pairwise a b [] hs (by simp)
    | cons p m ih =>
      obtain ⟨k, v⟩ := p
      obtain ⟨hk, hs⟩ := List.pairwise_cons.mp hs
      unfold Memory.write
      split
      · rename_i hka
        refine List.pairwise_cons.mpr ⟨fun q hq => ?_, ih hs⟩
        rcases Memory.mem_write m a b q hq with ⟨rfl, -⟩ | hq
        · exact hka
        · exact hk q hq
      · split
        · rename_i _ hka
          subst hka
          exact Memory.consCell_pairwise k b m hs hk
        · refine Memory.consCell_pairwise a b _ (List.pairwise_cons.mpr ⟨hk, hs⟩) (fun q hq => ?_)
          rcases List.mem_cons.mp hq with rfl | hq
          · simp only; omega
          · have := hk q hq; simp only at this; omega
  · rcases Memory.mem_write m a b q hq with ⟨rfl, hne⟩ | hq
    · exact hne
    · exact hb q hq

/-- Storing a word keeps the canonical form. -/
theorem writeWord_wf (m : Memory) (a : Nat) (w : CellWord) (h : m.wf = true) : (writeWord m a w).wf = true := by
  unfold writeWord
  exact Memory.write_wf _ _ _ (Memory.write_wf _ _ _ (Memory.write_wf _ _ _ (Memory.write_wf _ _ _ h)))

/-- The four bytes of a word, big-endian, give the word back (20_memory.md R103). -/
theorem wordOfBytes_byteOfWord (w : CellWord) :
    wordOfBytes (byteOfWord w 0) (byteOfWord w 1) (byteOfWord w 2) (byteOfWord w 3) = w := by
  apply BitVec.eq_of_getLsbD_eq
  intro i hi
  simp only [wordOfBytes, byteOfWord, BitVec.getLsbD_append, BitVec.getLsbD_extractLsb']
  split
  · simp_all
  · split
    · have : 8 * (3 - 2) + (i - 8) = i := by omega
      simp_all
    · split
      · have : 8 * (3 - 1) + (i - 8 - 8) = i := by omega
        simp_all
      · have : 8 * (3 - 0) + (i - 8 - 8 - 8) = i := by omega
        have : i - 8 - 8 - 8 < 8 := by omega
        simp_all

/-- Reading a word back where it was stored. -/
theorem readWord_writeWord (m : Memory) (a : Nat) (w : CellWord) (h : m.wf = true) :
    readWord (writeWord m a w) a = w := by
  have h0 := Memory.write_wf m a (byteOfWord w 0) h
  have h1 := Memory.write_wf _ (a + 1) (byteOfWord w 1) h0
  have h2 := Memory.write_wf _ (a + 2) (byteOfWord w 2) h1
  unfold readWord writeWord
  simp only [Memory.read_write _ _ _ _ h2, Memory.read_write _ _ _ _ h1, Memory.read_write _ _ _ _ h0,
    Memory.read_write _ _ _ _ h]
  simp [wordOfBytes_byteOfWord]

/-- Storing a word leaves every other byte alone. -/
theorem read_writeWord_other (m : Memory) (a x : Nat) (w : CellWord) (h : m.wf = true) (hx : x < a ∨ a + 4 ≤ x) :
    (writeWord m a w).read x = m.read x := by
  have h0 := Memory.write_wf m a (byteOfWord w 0) h
  have h1 := Memory.write_wf _ (a + 1) (byteOfWord w 1) h0
  have h2 := Memory.write_wf _ (a + 2) (byteOfWord w 2) h1
  unfold writeWord
  rw [Memory.read_write _ _ _ _ h2, Memory.read_write _ _ _ _ h1, Memory.read_write _ _ _ _ h0, Memory.read_write _ _ _ _ h]
  simp only [show x ≠ a + 3 by omega, show x ≠ a + 2 by omega, show x ≠ a + 1 by omega, show x ≠ a by omega, if_false]

end Sys2Proof.Machine
end

