-- ==== Sys2Proof/Laws/State.lean ====
section
/-! SUPPORT. One lemma per field per update of the state, so that no later proof unfolds a record update. -/

namespace Sys2Proof.Machine

/-! Writing a channel's banks. -/

@[simp] theorem setChan_cfg (s : State) (c : Channel) (k : Chan) : (s.setChan c k).cfg = s.cfg := rfl
@[simp] theorem setChan_loaded (s : State) (c : Channel) (k : Chan) : (s.setChan c k).loaded = s.loaded := rfl
@[simp] theorem setChan_song (s : State) (c : Channel) (k : Chan) : (s.setChan c k).song = s.song := rfl
@[simp] theorem setChan_seq (s : State) (c : Channel) (k : Chan) : (s.setChan c k).seq = s.seq := rfl
@[simp] theorem setChan_cr (s : State) (c : Channel) (k : Chan) : (s.setChan c k).cr = s.cr := rfl
@[simp] theorem setChan_out (s : State) (c : Channel) (k : Chan) : (s.setChan c k).out = s.out := rfl
@[simp] theorem setChan_ch (s : State) (c : Channel) (k : Chan) : (s.setChan c k).ch = s.ch := rfl

theorem chan_setChan (s : State) (c d : Channel) (k : Chan) :
    (s.setChan c k).chan d = if d = c then k else s.chan d := by
  simp only [State.chan, State.setChan, Vector.getElem_set, Fin.ext_iff, eq_comm]

@[simp] theorem chan_setChan_self (s : State) (c : Channel) (k : Chan) : (s.setChan c k).chan c = k := by
  simp [chan_setChan]

theorem chan_setChan_other (s : State) (c d : Channel) (k : Chan) (h : d ≠ c) :
    (s.setChan c k).chan d = s.chan d := by
  simp [chan_setChan, h]

@[simp] theorem setChan_setChan (s : State) (c : Channel) (k l : Chan) :
    (s.setChan c k).setChan c l = s.setChan c l := by
  simp [State.setChan, Vector.set_set]

@[simp] theorem setChan_chan (s : State) (c : Channel) : s.setChan c (s.chan c) = s := by
  simp [State.setChan, State.chan]

/-! Writing voice of a channel. -/

@[simp] theorem setVoice_cfg (s : State) (c : Channel) (x : Voice) : (s.setVoice c x).cfg = s.cfg := rfl
@[simp] theorem setVoice_loaded (s : State) (c : Channel) (x : Voice) : (s.setVoice c x).loaded = s.loaded := rfl
@[simp] theorem setVoice_song (s : State) (c : Channel) (x : Voice) : (s.setVoice c x).song = s.song := rfl
@[simp] theorem setVoice_seq (s : State) (c : Channel) (x : Voice) : (s.setVoice c x).seq = s.seq := rfl
@[simp] theorem setVoice_cr (s : State) (c : Channel) (x : Voice) : (s.setVoice c x).cr = s.cr := rfl
@[simp] theorem setVoice_out (s : State) (c : Channel) (x : Voice) : (s.setVoice c x).out = s.out := rfl
@[simp] theorem setVoice_ch (s : State) (c : Channel) (x : Voice) : (s.setVoice c x).ch = s.ch := rfl

@[simp] theorem voice_setVoice (s : State) (c : Channel) (x : Voice) : (s.setVoice c x).voice c = x := by
  simp [State.voice, State.setVoice]
theorem voice_setVoice_if (s : State) (c d : Channel) (x : Voice) :
    (s.setVoice c x).voice d = if d = c then x else s.voice d := by
  simp only [State.voice, State.setVoice, chan_setChan]; split <;> simp_all
@[simp] theorem synth_setVoice (s : State) (c d : Channel) (x : Voice) : (s.setVoice c x).synth d = s.synth d := by
  simp only [State.synth, State.setVoice, chan_setChan]; split <;> simp_all
@[simp] theorem mixer_setVoice (s : State) (c d : Channel) (x : Voice) : (s.setVoice c x).mixer d = s.mixer d := by
  simp only [State.mixer, State.setVoice, chan_setChan]; split <;> simp_all
@[simp] theorem scope_setVoice (s : State) (c d : Channel) (x : Voice) : (s.setVoice c x).scope d = s.scope d := by
  simp only [State.scope, State.setVoice, chan_setChan]; split <;> simp_all
@[simp] theorem dv_setVoice (s : State) (c d : Channel) (x : Voice) : (s.setVoice c x).dv d = s.dv d := by
  simp only [State.dv, State.setVoice, chan_setChan]; split <;> simp_all
theorem chan_setVoice_other (s : State) (c d : Channel) (x : Voice) (h : d ≠ c) : (s.setVoice c x).chan d = s.chan d := by
  simp [State.setVoice, chan_setChan, h]
@[simp] theorem setVoice_setVoice (s : State) (c : Channel) (x z : Voice) : (s.setVoice c x).setVoice c z = s.setVoice c z := by
  simp [State.setVoice]
@[simp] theorem setVoice_voice (s : State) (c : Channel) : s.setVoice c (s.voice c) = s := by
  exact setChan_chan s c

/-! Writing synth of a channel. -/

@[simp] theorem setSynth_cfg (s : State) (c : Channel) (x : Synth) : (s.setSynth c x).cfg = s.cfg := rfl
@[simp] theorem setSynth_loaded (s : State) (c : Channel) (x : Synth) : (s.setSynth c x).loaded = s.loaded := rfl
@[simp] theorem setSynth_song (s : State) (c : Channel) (x : Synth) : (s.setSynth c x).song = s.song := rfl
@[simp] theorem setSynth_seq (s : State) (c : Channel) (x : Synth) : (s.setSynth c x).seq = s.seq := rfl
@[simp] theorem setSynth_cr (s : State) (c : Channel) (x : Synth) : (s.setSynth c x).cr = s.cr := rfl
@[simp] theorem setSynth_out (s : State) (c : Channel) (x : Synth) : (s.setSynth c x).out = s.out := rfl
@[simp] theorem setSynth_ch (s : State) (c : Channel) (x : Synth) : (s.setSynth c x).ch = s.ch := rfl

@[simp] theorem voice_setSynth (s : State) (c d : Channel) (x : Synth) : (s.setSynth c x).voice d = s.voice d := by
  simp only [State.voice, State.setSynth, chan_setChan]; split <;> simp_all
@[simp] theorem synth_setSynth (s : State) (c : Channel) (x : Synth) : (s.setSynth c x).synth c = x := by
  simp [State.synth, State.setSynth]
theorem synth_setSynth_if (s : State) (c d : Channel) (x : Synth) :
    (s.setSynth c x).synth d = if d = c then x else s.synth d := by
  simp only [State.synth, State.setSynth, chan_setChan]; split <;> simp_all
@[simp] theorem mixer_setSynth (s : State) (c d : Channel) (x : Synth) : (s.setSynth c x).mixer d = s.mixer d := by
  simp only [State.mixer, State.setSynth, chan_setChan]; split <;> simp_all
@[simp] theorem scope_setSynth (s : State) (c d : Channel) (x : Synth) : (s.setSynth c x).scope d = s.scope d := by
  simp only [State.scope, State.setSynth, chan_setChan]; split <;> simp_all
@[simp] theorem dv_setSynth (s : State) (c d : Channel) (x : Synth) : (s.setSynth c x).dv d = s.dv d := by
  simp only [State.dv, State.setSynth, chan_setChan]; split <;> simp_all
theorem chan_setSynth_other (s : State) (c d : Channel) (x : Synth) (h : d ≠ c) : (s.setSynth c x).chan d = s.chan d := by
  simp [State.setSynth, chan_setChan, h]
@[simp] theorem setSynth_setSynth (s : State) (c : Channel) (x z : Synth) : (s.setSynth c x).setSynth c z = s.setSynth c z := by
  simp [State.setSynth]
@[simp] theorem setSynth_synth (s : State) (c : Channel) : s.setSynth c (s.synth c) = s := by
  exact setChan_chan s c

/-! Writing mixer of a channel. -/

@[simp] theorem setMixer_cfg (s : State) (c : Channel) (x : Mixer) : (s.setMixer c x).cfg = s.cfg := rfl
@[simp] theorem setMixer_loaded (s : State) (c : Channel) (x : Mixer) : (s.setMixer c x).loaded = s.loaded := rfl
@[simp] theorem setMixer_song (s : State) (c : Channel) (x : Mixer) : (s.setMixer c x).song = s.song := rfl
@[simp] theorem setMixer_seq (s : State) (c : Channel) (x : Mixer) : (s.setMixer c x).seq = s.seq := rfl
@[simp] theorem setMixer_cr (s : State) (c : Channel) (x : Mixer) : (s.setMixer c x).cr = s.cr := rfl
@[simp] theorem setMixer_out (s : State) (c : Channel) (x : Mixer) : (s.setMixer c x).out = s.out := rfl
@[simp] theorem setMixer_ch (s : State) (c : Channel) (x : Mixer) : (s.setMixer c x).ch = s.ch := rfl

@[simp] theorem voice_setMixer (s : State) (c d : Channel) (x : Mixer) : (s.setMixer c x).voice d = s.voice d := by
  simp only [State.voice, State.setMixer, chan_setChan]; split <;> simp_all
@[simp] theorem synth_setMixer (s : State) (c d : Channel) (x : Mixer) : (s.setMixer c x).synth d = s.synth d := by
  simp only [State.synth, State.setMixer, chan_setChan]; split <;> simp_all
@[simp] theorem mixer_setMixer (s : State) (c : Channel) (x : Mixer) : (s.setMixer c x).mixer c = x := by
  simp [State.mixer, State.setMixer]
theorem mixer_setMixer_if (s : State) (c d : Channel) (x : Mixer) :
    (s.setMixer c x).mixer d = if d = c then x else s.mixer d := by
  simp only [State.mixer, State.setMixer, chan_setChan]; split <;> simp_all
@[simp] theorem scope_setMixer (s : State) (c d : Channel) (x : Mixer) : (s.setMixer c x).scope d = s.scope d := by
  simp only [State.scope, State.setMixer, chan_setChan]; split <;> simp_all
@[simp] theorem dv_setMixer (s : State) (c d : Channel) (x : Mixer) : (s.setMixer c x).dv d = s.dv d := by
  simp only [State.dv, State.setMixer, chan_setChan]; split <;> simp_all
theorem chan_setMixer_other (s : State) (c d : Channel) (x : Mixer) (h : d ≠ c) : (s.setMixer c x).chan d = s.chan d := by
  simp [State.setMixer, chan_setChan, h]
@[simp] theorem setMixer_setMixer (s : State) (c : Channel) (x z : Mixer) : (s.setMixer c x).setMixer c z = s.setMixer c z := by
  simp [State.setMixer]
@[simp] theorem setMixer_mixer (s : State) (c : Channel) : s.setMixer c (s.mixer c) = s := by
  exact setChan_chan s c

/-! Writing scope of a channel. -/

@[simp] theorem setScope_cfg (s : State) (c : Channel) (x : Scope) : (s.setScope c x).cfg = s.cfg := rfl
@[simp] theorem setScope_loaded (s : State) (c : Channel) (x : Scope) : (s.setScope c x).loaded = s.loaded := rfl
@[simp] theorem setScope_song (s : State) (c : Channel) (x : Scope) : (s.setScope c x).song = s.song := rfl
@[simp] theorem setScope_seq (s : State) (c : Channel) (x : Scope) : (s.setScope c x).seq = s.seq := rfl
@[simp] theorem setScope_cr (s : State) (c : Channel) (x : Scope) : (s.setScope c x).cr = s.cr := rfl
@[simp] theorem setScope_out (s : State) (c : Channel) (x : Scope) : (s.setScope c x).out = s.out := rfl
@[simp] theorem setScope_ch (s : State) (c : Channel) (x : Scope) : (s.setScope c x).ch = s.ch := rfl

@[simp] theorem voice_setScope (s : State) (c d : Channel) (x : Scope) : (s.setScope c x).voice d = s.voice d := by
  simp only [State.voice, State.setScope, chan_setChan]; split <;> simp_all
@[simp] theorem synth_setScope (s : State) (c d : Channel) (x : Scope) : (s.setScope c x).synth d = s.synth d := by
  simp only [State.synth, State.setScope, chan_setChan]; split <;> simp_all
@[simp] theorem mixer_setScope (s : State) (c d : Channel) (x : Scope) : (s.setScope c x).mixer d = s.mixer d := by
  simp only [State.mixer, State.setScope, chan_setChan]; split <;> simp_all
@[simp] theorem scope_setScope (s : State) (c : Channel) (x : Scope) : (s.setScope c x).scope c = x := by
  simp [State.scope, State.setScope]
theorem scope_setScope_if (s : State) (c d : Channel) (x : Scope) :
    (s.setScope c x).scope d = if d = c then x else s.scope d := by
  simp only [State.scope, State.setScope, chan_setChan]; split <;> simp_all
@[simp] theorem dv_setScope (s : State) (c d : Channel) (x : Scope) : (s.setScope c x).dv d = s.dv d := by
  simp only [State.dv, State.setScope, chan_setChan]; split <;> simp_all
theorem chan_setScope_other (s : State) (c d : Channel) (x : Scope) (h : d ≠ c) : (s.setScope c x).chan d = s.chan d := by
  simp [State.setScope, chan_setChan, h]
@[simp] theorem setScope_setScope (s : State) (c : Channel) (x z : Scope) : (s.setScope c x).setScope c z = s.setScope c z := by
  simp [State.setScope]
@[simp] theorem setScope_scope (s : State) (c : Channel) : s.setScope c (s.scope c) = s := by
  exact setChan_chan s c

/-! Writing dv of a channel. -/

@[simp] theorem setDv_cfg (s : State) (c : Channel) (x : Int) : (s.setDv c x).cfg = s.cfg := rfl
@[simp] theorem setDv_loaded (s : State) (c : Channel) (x : Int) : (s.setDv c x).loaded = s.loaded := rfl
@[simp] theorem setDv_song (s : State) (c : Channel) (x : Int) : (s.setDv c x).song = s.song := rfl
@[simp] theorem setDv_seq (s : State) (c : Channel) (x : Int) : (s.setDv c x).seq = s.seq := rfl
@[simp] theorem setDv_cr (s : State) (c : Channel) (x : Int) : (s.setDv c x).cr = s.cr := rfl
@[simp] theorem setDv_out (s : State) (c : Channel) (x : Int) : (s.setDv c x).out = s.out := rfl
@[simp] theorem setDv_ch (s : State) (c : Channel) (x : Int) : (s.setDv c x).ch = s.ch := rfl

@[simp] theorem voice_setDv (s : State) (c d : Channel) (x : Int) : (s.setDv c x).voice d = s.voice d := by
  simp only [State.voice, State.setDv, chan_setChan]; split <;> simp_all
@[simp] theorem synth_setDv (s : State) (c d : Channel) (x : Int) : (s.setDv c x).synth d = s.synth d := by
  simp only [State.synth, State.setDv, chan_setChan]; split <;> simp_all
@[simp] theorem mixer_setDv (s : State) (c d : Channel) (x : Int) : (s.setDv c x).mixer d = s.mixer d := by
  simp only [State.mixer, State.setDv, chan_setChan]; split <;> simp_all
@[simp] theorem scope_setDv (s : State) (c d : Channel) (x : Int) : (s.setDv c x).scope d = s.scope d := by
  simp only [State.scope, State.setDv, chan_setChan]; split <;> simp_all
@[simp] theorem dv_setDv (s : State) (c : Channel) (x : Int) : (s.setDv c x).dv c = x := by
  simp [State.dv, State.setDv]
theorem dv_setDv_if (s : State) (c d : Channel) (x : Int) :
    (s.setDv c x).dv d = if d = c then x else s.dv d := by
  simp only [State.dv, State.setDv, chan_setChan]; split <;> simp_all
theorem chan_setDv_other (s : State) (c d : Channel) (x : Int) (h : d ≠ c) : (s.setDv c x).chan d = s.chan d := by
  simp [State.setDv, chan_setChan, h]
@[simp] theorem setDv_setDv (s : State) (c : Channel) (x z : Int) : (s.setDv c x).setDv c z = s.setDv c z := by
  simp [State.setDv]
@[simp] theorem setDv_dv (s : State) (c : Channel) : s.setDv c (s.dv c) = s := by
  exact setChan_chan s c

/-! Writing S. -/

@[simp] theorem setSeq_cfg (s : State) (q : Seq) : (s.setSeq q).cfg = s.cfg := rfl
@[simp] theorem setSeq_loaded (s : State) (q : Seq) : (s.setSeq q).loaded = s.loaded := rfl
@[simp] theorem setSeq_song (s : State) (q : Seq) : (s.setSeq q).song = s.song := rfl
@[simp] theorem setSeq_cr (s : State) (q : Seq) : (s.setSeq q).cr = s.cr := rfl
@[simp] theorem setSeq_out (s : State) (q : Seq) : (s.setSeq q).out = s.out := rfl
@[simp] theorem setSeq_ch (s : State) (q : Seq) : (s.setSeq q).ch = s.ch := rfl
@[simp] theorem setSeq_seq (s : State) (q : Seq) : (s.setSeq q).seq = q := rfl
@[simp] theorem setSeq_chan (s : State) (q : Seq) (c : Channel) : (s.setSeq q).chan c = s.chan c := rfl
@[simp] theorem setSeq_voice (s : State) (q : Seq) (c : Channel) : (s.setSeq q).voice c = s.voice c := rfl
@[simp] theorem setSeq_synth (s : State) (q : Seq) (c : Channel) : (s.setSeq q).synth c = s.synth c := rfl
@[simp] theorem setSeq_mixer (s : State) (q : Seq) (c : Channel) : (s.setSeq q).mixer c = s.mixer c := rfl
@[simp] theorem setSeq_scope (s : State) (q : Seq) (c : Channel) : (s.setSeq q).scope c = s.scope c := rfl
@[simp] theorem setSeq_dv (s : State) (q : Seq) (c : Channel) : (s.setSeq q).dv c = s.dv c := rfl
@[simp] theorem setSeq_setSeq (s : State) (q r : Seq) : (s.setSeq q).setSeq r = s.setSeq r := rfl

/-! Setting a STATUS bit. -/

@[simp] theorem flag_cfg (e : Event) (s : State) : (flag e s).cfg = s.cfg := rfl
@[simp] theorem flag_loaded (e : Event) (s : State) : (flag e s).loaded = s.loaded := rfl
@[simp] theorem flag_song (e : Event) (s : State) : (flag e s).song = s.song := rfl
@[simp] theorem flag_seq (e : Event) (s : State) : (flag e s).seq = s.seq := rfl
@[simp] theorem flag_out (e : Event) (s : State) : (flag e s).out = s.out := rfl
@[simp] theorem flag_ch (e : Event) (s : State) : (flag e s).ch = s.ch := rfl
@[simp] theorem flag_chans (e : Event) (s : State) : (flag e s).chans = s.chans := rfl
@[simp] theorem flag_cr_scopeEn (e : Event) (s : State) : (flag e s).cr.scopeEn = s.cr.scopeEn := rfl
@[simp] theorem flag_cr_sampleRate (e : Event) (s : State) : (flag e s).cr.sampleRate = s.cr.sampleRate := rfl
@[simp] theorem flag_cr_stereoMix (e : Event) (s : State) : (flag e s).cr.stereoMix = s.cr.stereoMix := rfl
@[simp] theorem flag_chan (e : Event) (s : State) (c : Channel) : (flag e s).chan c = s.chan c := rfl
@[simp] theorem flag_voice (e : Event) (s : State) (c : Channel) : (flag e s).voice c = s.voice c := rfl
@[simp] theorem flag_synth (e : Event) (s : State) (c : Channel) : (flag e s).synth c = s.synth c := rfl
@[simp] theorem flag_mixer (e : Event) (s : State) (c : Channel) : (flag e s).mixer c = s.mixer c := rfl
@[simp] theorem flag_scope (e : Event) (s : State) (c : Channel) : (flag e s).scope c = s.scope c := rfl
@[simp] theorem flag_dv (e : Event) (s : State) (c : Channel) : (flag e s).dv c = s.dv c := rfl

@[simp] theorem flagIf_cfg (b : Bool) (e : Event) (s : State) : (flagIf b e s).cfg = s.cfg := by
  unfold flagIf; split <;> rfl
@[simp] theorem flagIf_loaded (b : Bool) (e : Event) (s : State) : (flagIf b e s).loaded = s.loaded := by
  unfold flagIf; split <;> rfl
@[simp] theorem flagIf_song (b : Bool) (e : Event) (s : State) : (flagIf b e s).song = s.song := by
  unfold flagIf; split <;> rfl
@[simp] theorem flagIf_seq (b : Bool) (e : Event) (s : State) : (flagIf b e s).seq = s.seq := by
  unfold flagIf; split <;> rfl
@[simp] theorem flagIf_out (b : Bool) (e : Event) (s : State) : (flagIf b e s).out = s.out := by
  unfold flagIf; split <;> rfl
@[simp] theorem flagIf_ch (b : Bool) (e : Event) (s : State) : (flagIf b e s).ch = s.ch := by
  unfold flagIf; split <;> rfl
@[simp] theorem flagIf_chans (b : Bool) (e : Event) (s : State) : (flagIf b e s).chans = s.chans := by
  unfold flagIf; split <;> rfl
@[simp] theorem flagIf_cr_scopeEn (b : Bool) (e : Event) (s : State) : (flagIf b e s).cr.scopeEn = s.cr.scopeEn := by
  unfold flagIf; split <;> rfl
@[simp] theorem flagIf_cr_sampleRate (b : Bool) (e : Event) (s : State) : (flagIf b e s).cr.sampleRate = s.cr.sampleRate := by
  unfold flagIf; split <;> rfl
@[simp] theorem flagIf_cr_stereoMix (b : Bool) (e : Event) (s : State) : (flagIf b e s).cr.stereoMix = s.cr.stereoMix := by
  unfold flagIf; split <;> rfl
@[simp] theorem flagIf_chan (b : Bool) (e : Event) (s : State) (c : Channel) : (flagIf b e s).chan c = s.chan c := by
  unfold flagIf; split <;> rfl
@[simp] theorem flagIf_voice (b : Bool) (e : Event) (s : State) (c : Channel) : (flagIf b e s).voice c = s.voice c := by
  unfold flagIf; split <;> rfl
@[simp] theorem flagIf_synth (b : Bool) (e : Event) (s : State) (c : Channel) : (flagIf b e s).synth c = s.synth c := by
  unfold flagIf; split <;> rfl
@[simp] theorem flagIf_mixer (b : Bool) (e : Event) (s : State) (c : Channel) : (flagIf b e s).mixer c = s.mixer c := by
  unfold flagIf; split <;> rfl
@[simp] theorem flagIf_scope (b : Bool) (e : Event) (s : State) (c : Channel) : (flagIf b e s).scope c = s.scope c := by
  unfold flagIf; split <;> rfl
@[simp] theorem flagIf_dv (b : Bool) (e : Event) (s : State) (c : Channel) : (flagIf b e s).dv c = s.dv c := by
  unfold flagIf; split <;> rfl

end Sys2Proof.Machine
end

