-- ==== Sys2Proof/Laws/Ops.lean ====
section
/-! SUPPORT. One lemma per shared operation saying what it can do: the arithmetic helpers, the banks an operation may write,
the loops over the channels. -/

namespace Sys2Proof.Machine

/-! ## Arithmetic -/

theorem clamp_eq_max_min (lo hi v : Int) (h : lo ≤ hi) : clamp lo hi v = max lo (min hi v) := by
  unfold clamp; split <;> [skip; split] <;> omega

theorem clampPeriod_toNat (v : Int) : ((clampPeriod v).toNat : Int) = max 103 (min 65535 v) := by
  have e : clamp periodMin periodMax v = max 103 (min 65535 v) := clamp_eq_max_min _ _ v (by decide)
  rw [clampPeriod, e, BitVec.toNat_ofInt]; omega

theorem clampVolume_toNat (v : Int) : ((clampVolume v).toNat : Int) = max 0 (min 64 v) := by
  have e : clamp 0 volMax v = max 0 (min 64 v) := clamp_eq_max_min _ _ v (by decide)
  rw [clampVolume, e, BitVec.toNat_ofInt]; omega

theorem clampSynthVolume_toNat (v : Int) : ((clampSynthVolume v).toNat : Int) = max 0 (min 127 v) := by
  have e : clamp 0 svolMax v = max 0 (min 127 v) := clamp_eq_max_min _ _ v (by decide)
  rw [clampSynthVolume, e, BitVec.toNat_ofInt]; omega

/-- The clamp of a natural number is its minimum with 64. -/
theorem clampVolume_nat (n : Nat) : clampVolume n = BitVec.ofNat 7 (min 64 n) := by
  apply BitVec.eq_of_toNat_eq
  have := clampVolume_toNat n
  rw [BitVec.toNat_ofNat]; omega

theorem clampPeriod_ge (v : Int) : periodMin ≤ (clampPeriod v).toNat := by
  have := clampPeriod_toNat v; show 103 ≤ _; omega

theorem clampPeriod_legal (v : Int) : legalPeriod (clampPeriod v) := .inr (clampPeriod_ge v)

theorem clampVolume_le (v : Int) : (clampVolume v).toNat ≤ volMax := by
  have := clampVolume_toNat v; show _ ≤ 64; omega

theorem periodOf_ge (cfg : Config) (ft : BitVec 4) (n : Int) : periodMin ≤ (periodOf cfg ft n).toNat :=
  clampPeriod_ge _

theorem periodOf_legal (cfg : Config) (ft : BitVec 4) (n : Int) : legalPeriod (periodOf cfg ft n) :=
  clampPeriod_legal _

/-- A portamento step stays between the period and the target, so between legal periods it stays legal. -/
theorem portaStepPeriod_legal (v : Voice) (hp : legalPeriod v.period) (ht : legalPeriod v.portaTarget) :
    legalPeriod (portaStepPeriod v) := by
  simp only [portaStepPeriod]
  split
  · exact hp
  · rename_i h
    rw [not_or] at h
    have a := hp.resolve_left h.1
    have b := ht.resolve_left h.2
    have := v.period.isLt
    have := v.portaTarget.isLt
    split
    · right; rw [BitVec.toNat_ofInt]; omega
    · split
      · right; rw [BitVec.toNat_ofInt]; omega
      · exact hp

/-- A volume slide is the clamp of the exact sum or difference. -/
theorem volSlide_eq (c : Channel) (x y : Nibble) (s : State) :
    volSlide c x y s = s.setVoice c { s.voice c with
      volume := clampVolume (if x = 0 then ((s.voice c).volume.toNat : Int) - y.toNat
        else ((s.voice c).volume.toNat : Int) + x.toNat) } := by
  unfold volSlide; split <;> simp_all

/-- The voice a period slide leaves. -/
theorem slidePeriod_eq (c : Channel) (d : Int) (s : State) :
    slidePeriod c d s = s.setVoice c { s.voice c with
      period := if (s.voice c).period = 0 then 0 else clampPeriod (((s.voice c).period.toNat : Int) + d) } := by
  unfold slidePeriod withPitch
  split
  · rename_i h
    rw [show ({ s.voice c with period := 0 } : Voice) = s.voice c by rw [← h]]
    simp
  · simp_all

theorem pan_range (var : Variant) (k : BitVec 9) (c : Channel) (h : k.toNat ≤ 256) :
    0 ≤ (panGains var k c).1 ∧ 0 ≤ (panGains var k c).2 := by
  have h0 : (0 : Rat) ≤ k.toNat := Nat.cast_nonneg _
  have h1 : (k.toNat : Rat) ≤ 256 := by exact_mod_cast h
  unfold panGains stereoFactor
  split <;> constructor <;> simp only [] <;> linarith

/-! ## Which banks an operation may write -/

theorem OnlyChannel.refl (c : Channel) (s : State) : OnlyChannel c s s where
  cfg := rfl
  loaded := rfl
  song := rfl
  seq := rfl
  out := rfl
  ch := rfl
  scopeEn := rfl
  sampleRate := rfl
  stereoMix := rfl
  status := BitVec.or_self
  others := fun _ _ => rfl

theorem status_trans {a b c : BitVec 32} (h : a ||| b = b) (k : b ||| c = c) : a ||| c = c := by
  rw [← k, ← BitVec.or_assoc, h]

theorem OnlyChannel.trans {c : Channel} {s t u : State} (h : OnlyChannel c s t) (k : OnlyChannel c t u) :
    OnlyChannel c s u where
  cfg := k.cfg.trans h.cfg
  loaded := k.loaded.trans h.loaded
  song := k.song.trans h.song
  seq := k.seq.trans h.seq
  out := k.out.trans h.out
  ch := k.ch.trans h.ch
  scopeEn := k.scopeEn.trans h.scopeEn
  sampleRate := k.sampleRate.trans h.sampleRate
  stereoMix := k.stereoMix.trans h.stereoMix
  status := status_trans h.status k.status
  others := fun d hd => (k.others d hd).trans (h.others d hd)

theorem setChan_onlyChannel (c : Channel) (s : State) (k : Chan) : OnlyChannel c s (s.setChan c k) where
  cfg := rfl
  loaded := rfl
  song := rfl
  seq := rfl
  out := rfl
  ch := rfl
  scopeEn := rfl
  sampleRate := rfl
  stereoMix := rfl
  status := BitVec.or_self
  others := fun d hd => chan_setChan_other s c d k hd

theorem setVoice_onlyChannel (c : Channel) (s : State) (v : Voice) : OnlyChannel c s (s.setVoice c v) :=
  setChan_onlyChannel c s _
theorem setSynth_onlyChannel (c : Channel) (s : State) (y : Synth) : OnlyChannel c s (s.setSynth c y) :=
  setChan_onlyChannel c s _
theorem setMixer_onlyChannel (c : Channel) (s : State) (m : Mixer) : OnlyChannel c s (s.setMixer c m) :=
  setChan_onlyChannel c s _
theorem setScope_onlyChannel (c : Channel) (s : State) (k : Scope) : OnlyChannel c s (s.setScope c k) :=
  setChan_onlyChannel c s _
theorem setDv_onlyChannel (c : Channel) (s : State) (d : Int) : OnlyChannel c s (s.setDv c d) :=
  setChan_onlyChannel c s _

theorem flag_onlyChannel (c : Channel) (e : Event) (s : State) : OnlyChannel c s (flag e s) where
  cfg := rfl
  loaded := rfl
  song := rfl
  seq := rfl
  out := rfl
  ch := rfl
  scopeEn := rfl
  sampleRate := rfl
  stereoMix := rfl
  status := by simp [flag, ← BitVec.or_assoc]
  others := fun _ _ => rfl

theorem flagIf_onlyChannel (c : Channel) (b : Bool) (e : Event) (s : State) : OnlyChannel c s (flagIf b e s) := by
  unfold flagIf; split
  · exact flag_onlyChannel c e s
  · exact .refl c s

/-- What `flag` does to the sticky bits: it sets its own and keeps the others. -/
theorem flagged_flag (e d : Event) (s : State) : flagged d (flag e s) = (flagged d s || decide (d = e)) := by
  simp only [flagged, flag]
  rw [BitVec.getLsbD_or]
  congr 1
  cases d <;> cases e <;> decide

theorem flagged_flagIf (b : Bool) (e d : Event) (s : State) :
    flagged d (flagIf b e s) = (flagged d s || (b && decide (d = e))) := by
  cases b <;> simp [flagIf, flagged_flag]

theorem latchEffect_onlyChannel (c : Channel) (f : CellFields) (s : State) : OnlyChannel c s (latchEffect c f s) :=
  setVoice_onlyChannel c s _

theorem flagReserved_onlyChannel (c : Channel) (f : CellFields) (s : State) : OnlyChannel c s (flagReserved f s) :=
  (flagIf_onlyChannel c _ _ s).trans (flagIf_onlyChannel c _ _ _)

theorem resolveInstrument_onlyChannel (c : Channel) (i : BitVec 6) (s : State) :
    OnlyChannel c s (resolveInstrument c i s) := by
  unfold resolveInstrument
  split
  · exact .refl c s
  · split
    · exact flag_onlyChannel c _ s
    · exact setVoice_onlyChannel c s _

theorem portaCapture_onlyChannel (c : Channel) (n : BitVec 6) (s : State) : OnlyChannel c s (portaCapture c n s) :=
  setVoice_onlyChannel c s _

theorem triggerSample_onlyChannel (c : Channel) (i : Instrument) (b : SampleBody) (s : State) :
    OnlyChannel c s (triggerSample c i b s) := by
  simp only [triggerSample]
  split <;> exact (setMixer_onlyChannel c s _).trans (setSynth_onlyChannel c _ _)

theorem triggerSynth_onlyChannel (c : Channel) (i : Instrument) (b : SynthBody) (s : State) :
    OnlyChannel c s (triggerSynth c i b s) :=
  (setSynth_onlyChannel c s _).trans (setMixer_onlyChannel c _ _)

theorem triggerPitch_onlyChannel (c : Channel) (s : State) : OnlyChannel c s (triggerPitch c s) :=
  (setVoice_onlyChannel c s _).trans (setMixer_onlyChannel c _ _)

theorem silence_onlyChannel (c : Channel) (s : State) : OnlyChannel c s (silence c s) :=
  setMixer_onlyChannel c s _

theorem triggerInstrument_onlyChannel (c : Channel) (s : State) : OnlyChannel c s (triggerInstrument c s) := by
  unfold triggerInstrument
  split
  · exact silence_onlyChannel c s
  · split
    · exact (silence_onlyChannel c s).trans (flag_onlyChannel c _ _)
    · split
      · exact (setVoice_onlyChannel c s _).trans (triggerSample_onlyChannel c _ _ _)
      · exact (setVoice_onlyChannel c s _).trans (triggerSynth_onlyChannel c _ _ _)

theorem trigger_onlyChannel (c : Channel) (s : State) : OnlyChannel c s (trigger c s) :=
  (triggerPitch_onlyChannel c s).trans (triggerInstrument_onlyChannel c _)

theorem sampleOffset_onlyChannel (c : Channel) (arg : Byte) (s : State) : OnlyChannel c s (sampleOffset c arg s) := by
  unfold sampleOffset
  split
  · exact .refl c s
  · exact setMixer_onlyChannel c s _

theorem triggerNote_onlyChannel (c : Channel) (f : CellFields) (s : State) : OnlyChannel c s (triggerNote c f s) := by
  simp only [triggerNote]
  refine ((setVoice_onlyChannel c s { s.voice c with note := f.note }).trans (trigger_onlyChannel c _)).trans ?_
  generalize trigger c (s.setVoice c { s.voice c with note := f.note }) = t
  have a : OnlyChannel c t (if isTonePorta s.cfg.codes f.fx
      then t.setVoice c { t.voice c with portaTarget := (t.voice c).period } else t) := by
    split
    · exact setVoice_onlyChannel c t _
    · exact .refl c t
  split
  · exact a.trans (sampleOffset_onlyChannel c _ _)
  · exact a

theorem loadNote_onlyChannel (c : Channel) (f : CellFields) (p : BitVec 6) (s : State) :
    OnlyChannel c s (loadNote c f p s) := by
  unfold loadNote
  split
  · exact .refl c s
  · split
    · exact portaCapture_onlyChannel c _ s
    · exact triggerNote_onlyChannel c f s

theorem arpSetup_onlyChannel (c : Channel) (s : State) : OnlyChannel c s (arpSetup c s) := by
  unfold arpSetup
  simp only []
  split
  · exact setVoice_onlyChannel c s _
  · split <;> exact setVoice_onlyChannel c s _

/-- A row load writes its own channel's banks and STATUS bits only. -/
theorem rowLoad_onlyChannel (c : Channel) (f : CellFields) (s : State) : OnlyChannel c s (rowLoad c f s) := by
  unfold rowLoad
  exact ((((latchEffect_onlyChannel c f s).trans (flagReserved_onlyChannel c f _)).trans
    (resolveInstrument_onlyChannel c _ _)).trans (loadNote_onlyChannel c f _ _)).trans (arpSetup_onlyChannel c _)

theorem loadCell_onlyChannel (f : CellFields) (s : State) : OnlyChannel s.ch s (loadCell f s) := by
  unfold loadCell
  split
  · exact rowLoad_onlyChannel s.ch f s
  · exact .refl s.ch s

theorem afterLoad_onlyChannel (i : Instr) (s : State) : OnlyChannel s.ch s (afterLoad i s) := by
  unfold afterLoad
  split
  · exact rowLoad_onlyChannel s.ch _ s
  · exact .refl s.ch s

theorem volSlide_onlyChannel (c : Channel) (x y : Nibble) (s : State) : OnlyChannel c s (volSlide c x y s) := by
  rw [volSlide_eq]; exact setVoice_onlyChannel c s _

theorem tonePortaStep_onlyChannel (c : Channel) (s : State) : OnlyChannel c s (tonePortaStep c s) :=
  setVoice_onlyChannel c s _

theorem vibratoStep_onlyChannel (c : Channel) (s : State) : OnlyChannel c s (vibratoStep c s) :=
  (setDv_onlyChannel c s _).trans (setVoice_onlyChannel c _ _)

theorem slidePeriod_onlyChannel (c : Channel) (d : Int) (s : State) : OnlyChannel c s (slidePeriod c d s) := by
  rw [slidePeriod_eq]; exact setVoice_onlyChannel c s _

theorem withPitch_onlyChannel {c : Channel} {f : State → State} (h : ∀ s, OnlyChannel c s (f s)) (s : State) :
    OnlyChannel c s (withPitch c f s) := by
  unfold withPitch
  split
  · exact .refl c s
  · exact h s

theorem tonePorta_onlyChannel (c : Channel) (arg : Byte) (s : State) : OnlyChannel c s (tonePorta c arg s) := by
  refine withPitch_onlyChannel (fun t => ?_) s
  split
  · exact (setVoice_onlyChannel c t _).trans (tonePortaStep_onlyChannel c _)
  · exact tonePortaStep_onlyChannel c t

theorem tonePortaVslide_onlyChannel (c : Channel) (x y : Nibble) (s : State) : OnlyChannel c s (tonePortaVslide c x y s) :=
  withPitch_onlyChannel (fun t => (tonePortaStep_onlyChannel c t).trans (volSlide_onlyChannel c x y _)) s

theorem vibrato_onlyChannel (c : Channel) (x y : Nibble) (s : State) : OnlyChannel c s (vibrato c x y s) :=
  (setVoice_onlyChannel c s _).trans (vibratoStep_onlyChannel c _)

theorem passA_onlyChannel {c : Channel} {f : State → State} (h : ∀ s, OnlyChannel c s (f s)) (s : State) :
    OnlyChannel c s (passA f s) := by
  unfold passA
  split
  · exact .refl c s
  · exact h s

theorem onFirst_onlyChannel {c : Channel} {f : State → State} (h : ∀ s, OnlyChannel c s (f s)) (s : State) :
    OnlyChannel c s (onFirst f s) := by
  unfold onFirst
  split
  · exact h s
  · exact .refl c s

theorem arpeggioTick_onlyChannel (c : Channel) (s : State) : OnlyChannel c s (arpeggioTick c s) :=
  setVoice_onlyChannel c s _

theorem composePeriod_onlyChannel (c : Channel) (s : State) : OnlyChannel c s (composePeriod c s) := by
  simp only [composePeriod]
  split <;> exact setVoice_onlyChannel c s _

theorem envelopeStep_onlyChannel (c : Channel) (s : State) : OnlyChannel c s (envelopeStep c s) :=
  setSynth_onlyChannel c s _

theorem moveCursor_onlyChannel (c : Channel) (s : State) : OnlyChannel c s (moveCursor c s) :=
  (setSynth_onlyChannel c s _).trans (setMixer_onlyChannel c _ _)

theorem instrVibrato_onlyChannel (c : Channel) (s : State) : OnlyChannel c s (instrVibrato c s) := by
  simp only [instrVibrato]
  split
  · exact setSynth_onlyChannel c s _
  · split
    · exact .refl c s
    · exact (setVoice_onlyChannel c s _).trans (setSynth_onlyChannel c _ _)

theorem waveStep_onlyChannel (c : Channel) (s : State) : OnlyChannel c s (waveStep c s) := by
  simp only [waveStep]
  split
  · exact .refl c s
  · split
    · exact setSynth_onlyChannel c s _
    · split
      · exact setSynth_onlyChannel c s _
      · exact (setSynth_onlyChannel c s _).trans (moveCursor_onlyChannel c _)

theorem synthTick_onlyChannel (c : Channel) (s : State) : OnlyChannel c s (synthTick c s) := by
  unfold synthTick
  split
  · exact ((envelopeStep_onlyChannel c s).trans (waveStep_onlyChannel c _)).trans (instrVibrato_onlyChannel c _)
  · split
    · exact envelopeStep_onlyChannel c s
    · exact .refl c s

theorem mixerUpdate_onlyChannel (c : Channel) (s : State) : OnlyChannel c s (mixerUpdate c s) :=
  setMixer_onlyChannel c s _

theorem scopeWrite_onlyChannel (c : Channel) (o : Rat) (s : State) : OnlyChannel c s (scopeWrite c o s) :=
  setScope_onlyChannel c s _

theorem mixChannel_onlyChannel (c : Channel) (s : State) : OnlyChannel c s (mixChannel c s).1 := by
  simp only [mixChannel]
  split
  · exact (setMixer_onlyChannel c s _).trans (flagIf_onlyChannel c _ _ _)
  · exact setMixer_onlyChannel c s _

/-! ## A row load writes no scope ring and no vibrato delta -/

/-- t has the scope ring and the tick's vibrato delta that s has on channel c. -/
def SameScope (c : Channel) (s t : State) : Prop := t.scope c = s.scope c ∧ t.dv c = s.dv c

theorem SameScope.refl (c : Channel) (s : State) : SameScope c s s := ⟨rfl, rfl⟩

theorem SameScope.trans {c : Channel} {s t u : State} (h : SameScope c s t) (k : SameScope c t u) : SameScope c s u :=
  ⟨k.1.trans h.1, k.2.trans h.2⟩

theorem setVoice_sameScope (c : Channel) (s : State) (v : Voice) : SameScope c s (s.setVoice c v) := by simp [SameScope]
theorem setSynth_sameScope (c : Channel) (s : State) (y : Synth) : SameScope c s (s.setSynth c y) := by simp [SameScope]
theorem setMixer_sameScope (c : Channel) (s : State) (m : Mixer) : SameScope c s (s.setMixer c m) := by simp [SameScope]

theorem flagIf_sameScope (c : Channel) (b : Bool) (e : Event) (s : State) : SameScope c s (flagIf b e s) := by
  unfold flagIf; split <;> exact ⟨rfl, rfl⟩

theorem resolveInstrument_sameScope (c : Channel) (n : BitVec 6) (s : State) : SameScope c s (resolveInstrument c n s) := by
  unfold resolveInstrument
  split
  · exact .refl c s
  · split
    · exact ⟨rfl, rfl⟩
    · exact setVoice_sameScope c s _

theorem triggerSample_sameScope (c : Channel) (i : Instrument) (b : SampleBody) (s : State) :
    SameScope c s (triggerSample c i b s) := by
  simp only [triggerSample]
  split <;> exact (setMixer_sameScope c s _).trans (setSynth_sameScope c _ _)

theorem triggerSynth_sameScope (c : Channel) (i : Instrument) (b : SynthBody) (s : State) :
    SameScope c s (triggerSynth c i b s) :=
  (setSynth_sameScope c s _).trans (setMixer_sameScope c _ _)

theorem triggerInstrument_sameScope (c : Channel) (s : State) : SameScope c s (triggerInstrument c s) := by
  unfold triggerInstrument
  split
  · exact setMixer_sameScope c s _
  · split
    · exact (setMixer_sameScope c s _ : SameScope c s (silence c s))
    · split
      · exact (setVoice_sameScope c s _).trans (triggerSample_sameScope c _ _ _)
      · exact (setVoice_sameScope c s _).trans (triggerSynth_sameScope c _ _ _)

theorem sampleOffset_sameScope (c : Channel) (arg : Byte) (s : State) : SameScope c s (sampleOffset c arg s) := by
  unfold sampleOffset
  split
  · exact .refl c s
  · exact setMixer_sameScope c s _

theorem triggerNote_sameScope (c : Channel) (f : CellFields) (s : State) : SameScope c s (triggerNote c f s) := by
  simp only [triggerNote]
  have t : SameScope c s (trigger c (s.setVoice c { s.voice c with note := f.note })) :=
    (setVoice_sameScope c s _).trans (((setVoice_sameScope c _ _).trans (setMixer_sameScope c _ _)).trans
      (triggerInstrument_sameScope c _))
  generalize trigger c (s.setVoice c { s.voice c with note := f.note }) = u at t
  have p : SameScope c s (if isTonePorta s.cfg.codes f.fx
      then u.setVoice c { u.voice c with portaTarget := (u.voice c).period } else u) := by
    split
    · exact t.trans (setVoice_sameScope c u _)
    · exact t
  split
  · exact p.trans (sampleOffset_sameScope c _ _)
  · exact p

theorem loadNote_sameScope (c : Channel) (f : CellFields) (p : BitVec 6) (s : State) : SameScope c s (loadNote c f p s) := by
  unfold loadNote
  split
  · exact .refl c s
  · split
    · exact setVoice_sameScope c s _
    · exact triggerNote_sameScope c f s

theorem arpSetup_sameScope (c : Channel) (s : State) : SameScope c s (arpSetup c s) := by
  simp only [arpSetup]
  split
  · exact setVoice_sameScope c s _
  · split <;> exact setVoice_sameScope c s _

theorem rowLoad_sameScope (c : Channel) (f : CellFields) (s : State) : SameScope c s (rowLoad c f s) := by
  unfold rowLoad
  have a : SameScope c s (flagReserved f (latchEffect c f s)) :=
    (setVoice_sameScope c s _).trans ((flagIf_sameScope c _ _ _).trans (flagIf_sameScope c _ _ _))
  exact ((a.trans (resolveInstrument_sameScope c _ _)).trans (loadNote_sameScope c f _ _)).trans (arpSetup_sameScope c _)

/-! ## Each meaning is a handler on the state after the row load -/

@[simp] theorem afterLoad_seq (i : Instr) (s : State) : (afterLoad i s).seq = s.seq := (afterLoad_onlyChannel i s).seq
@[simp] theorem afterLoad_cfg (i : Instr) (s : State) : (afterLoad i s).cfg = s.cfg := (afterLoad_onlyChannel i s).cfg
@[simp] theorem afterLoad_song (i : Instr) (s : State) : (afterLoad i s).song = s.song := (afterLoad_onlyChannel i s).song
@[simp] theorem afterLoad_ch (i : Instr) (s : State) : (afterLoad i s).ch = s.ch := (afterLoad_onlyChannel i s).ch

theorem exec_arp (h : Head) (x y : Nibble) (s : State) :
    exec (.arp h x y) s = .next (afterLoad (.arp h x y) s) := rfl
theorem exec_slideUp (h : Head) (arg : Byte) (s : State) :
    exec (.slideUp h arg) s = .next (passA (slidePeriod s.ch (-(arg.toNat : Int))) (afterLoad (.slideUp h arg) s)) := rfl
theorem exec_slideDown (h : Head) (arg : Byte) (s : State) :
    exec (.slideDown h arg) s = .next (passA (slidePeriod s.ch (arg.toNat : Int)) (afterLoad (.slideDown h arg) s)) := rfl
theorem exec_tonePorta (h : Head) (arg : Byte) (s : State) :
    exec (.tonePorta h arg) s = .next (passA (tonePorta s.ch arg) (afterLoad (.tonePorta h arg) s)) := rfl
theorem exec_vibrato (h : Head) (x y : Nibble) (s : State) :
    exec (.vibrato h x y) s = .next (passA (vibrato s.ch x y) (afterLoad (.vibrato h x y) s)) := rfl
theorem exec_tonePortaVslide (h : Head) (x y : Nibble) (s : State) :
    exec (.tonePortaVslide h x y) s = .next (passA (tonePortaVslide s.ch x y) (afterLoad (.tonePortaVslide h x y) s)) := rfl
theorem exec_vibratoVslide (h : Head) (x y : Nibble) (s : State) :
    exec (.vibratoVslide h x y) s = .next (passA (fun t => volSlide s.ch x y (vibratoStep s.ch t)) (afterLoad (.vibratoVslide h x y) s)) := rfl
theorem exec_sampleOffset (h : Head) (arg : Byte) (s : State) :
    exec (.sampleOffset h arg) s = .next (afterLoad (.sampleOffset h arg) s) := rfl
theorem exec_volumeSlide (h : Head) (x y : Nibble) (s : State) :
    exec (.volumeSlide h x y) s = .next (passA (volSlide s.ch x y) (afterLoad (.volumeSlide h x y) s)) := rfl
theorem exec_positionJump (h : Head) (arg : Byte) (s : State) :
    exec (.positionJump h arg) s = .next (onFirst (positionJump arg) (afterLoad (.positionJump h arg) s)) := rfl
theorem exec_setVolume (h : Head) (arg : Byte) (s : State) :
    exec (.setVolume h arg) s = .next (setVolume s.ch arg (afterLoad (.setVolume h arg) s)) := rfl
theorem exec_patternBreak (h : Head) (arg : Byte) (s : State) :
    exec (.patternBreak h arg) s = .next (onFirst (patternBreak arg) (afterLoad (.patternBreak h arg) s)) := rfl
theorem exec_extra (h : Head) (x y : Nibble) (s : State) :
    exec (.extra h x y) s = .next (extraEffect s.ch x y (afterLoad (.extra h x y) s)) := rfl
theorem exec_setSpeed (h : Head) (arg : Byte) (s : State) :
    exec (.setSpeed h arg) s = .next (setSpeed arg (afterLoad (.setSpeed h arg) s)) := rfl
theorem exec_newVolume (h : Head) (arg : Byte) (s : State) :
    exec (.newVolume h arg) s = .next (onFirst (newVolume s.ch arg) (afterLoad (.newVolume h arg) s)) := rfl
theorem exec_waveSpeed (h : Head) (arg : Byte) (s : State) :
    exec (.waveSpeed h arg) s = .next (waveSpeed s.ch arg (afterLoad (.waveSpeed h arg) s)) := rfl
theorem exec_arpSpeed (h : Head) (arg : Byte) (s : State) :
    exec (.arpSpeed h arg) s = .next (arpSpeed s.ch arg (afterLoad (.arpSpeed h arg) s)) := rfl
theorem exec_fineSlideUp (h : Head) (arg : Byte) (s : State) :
    exec (.fineSlideUp h arg) s = .next (onFirst (slidePeriod s.ch (-(arg.toNat : Int))) (afterLoad (.fineSlideUp h arg) s)) := rfl
theorem exec_fineSlideDown (h : Head) (arg : Byte) (s : State) :
    exec (.fineSlideDown h arg) s = .next (onFirst (slidePeriod s.ch (arg.toNat : Int)) (afterLoad (.fineSlideDown h arg) s)) := rfl
theorem exec_trackVolume (h : Head) (arg : Byte) (s : State) :
    exec (.trackVolume h arg) s = .next (trackVolume s.ch arg (afterLoad (.trackVolume h arg) s)) := rfl
theorem exec_waveMode (h : Head) (arg : Byte) (s : State) :
    exec (.waveMode h arg) s = .next (waveMode s.ch arg (afterLoad (.waveMode h arg) s)) := rfl
theorem exec_extEvent (h : Head) (arg : Byte) (s : State) :
    exec (.extEvent h arg) s = .next (afterLoad (.extEvent h arg) s) := rfl
theorem exec_filter (h : Head) (y : Nibble) (s : State) :
    exec (.filter h y) s = .next (afterLoad (.filter h y) s) := rfl
theorem exec_vibWave (h : Head) (y : Nibble) (s : State) :
    exec (.vibWave h y) s = .next (vibWave s.ch y (afterLoad (.vibWave h y) s)) := rfl
theorem exec_patternLoop (h : Head) (y : Nibble) (s : State) :
    exec (.patternLoop h y) s = .next (onFirst (patternLoop y) (afterLoad (.patternLoop h y) s)) := rfl
theorem exec_patternDelay (h : Head) (y : Nibble) (s : State) :
    exec (.patternDelay h y) s = .next (onFirst (patternDelay y) (afterLoad (.patternDelay h y) s)) := rfl

/-! ## What an operation keeps for the whole machine -/

theorem KeepsHost.refl (s : State) : KeepsHost s s :=
  ⟨rfl, rfl, rfl, rfl, rfl, rfl, BitVec.or_self⟩

theorem KeepsHost.trans {s t u : State} (h : KeepsHost s t) (k : KeepsHost t u) : KeepsHost s u :=
  ⟨k.cfg.trans h.cfg, k.loaded.trans h.loaded, k.song.trans h.song, k.scopeEn.trans h.scopeEn,
    k.sampleRate.trans h.sampleRate, k.stereoMix.trans h.stereoMix, status_trans h.status k.status⟩

theorem OnlyChannel.keepsHost {c : Channel} {s t : State} (h : OnlyChannel c s t) : KeepsHost s t :=
  ⟨h.cfg, h.loaded, h.song, h.scopeEn, h.sampleRate, h.stereoMix, h.status⟩

theorem setSeq_keepsHost (s : State) (q : Seq) : KeepsHost s (s.setSeq q) :=
  ⟨rfl, rfl, rfl, rfl, rfl, rfl, BitVec.or_self⟩

theorem nextPosition_keepsHost (s : State) : KeepsHost s (nextPosition s) := by
  unfold nextPosition
  simp only []
  split
  · exact (setSeq_keepsHost s _).trans (flag_onlyChannel 0 _ _).keepsHost
  · exact setSeq_keepsHost s _

theorem endRow_keepsHost (s : State) : KeepsHost s (endRow s) := by
  unfold endRow
  split
  · exact setSeq_keepsHost s _
  · split
    · exact nextPosition_keepsHost s
    · split
      · exact setSeq_keepsHost s _
      · exact nextPosition_keepsHost s

/-! ## The loops -/

@[simp] theorem andThen_next (s : State) (f : State → Result) : andThen (.next s) f = f s := rfl

/-- What an answer of `andThen` says: the first part answered, and the second answered from there. -/
theorem andThen_eq_next {r : Result} {f : State → Result} {t : State} (h : andThen r f = .next t) :
    ∃ u, r = .next u ∧ f u = .next t := by
  cases r with
  | next u => exact ⟨u, rfl, h⟩
  | fault x => cases x
  | refused x => cases h

theorem foldl_keeps {α : Type} (P : State → Prop) (f : State → α → State) (hf : ∀ s a, P s → P (f s a)) (l : List α)
    (s : State) (h : P s) : P (l.foldl f s) := by
  induction l generalizing s with
  | nil => exact h
  | cons a l ih => exact ih _ (hf s a h)

/-- A property that every channel's part of a phase keeps, the phase keeps. -/
theorem forChannels_keeps (P : State → Prop) (f : Channel → State → State) (hf : ∀ c s, P s → P (f c s)) (s : State)
    (h : P s) : P (forChannels f s) :=
  foldl_keeps P (fun t c => f c t) (fun s c => hf c s) s.channels s h

/-- A channel that a phase does not visit keeps its banks. -/
theorem foldl_other (f : Channel → State → State) (hf : ∀ c s, OnlyChannel c s (f c s)) (l : List Channel) (s : State)
    (c : Channel) (hc : c ∉ l) : (l.foldl (fun t c => f c t) s).chan c = s.chan c := by
  induction l generalizing s with
  | nil => rfl
  | cons a l ih =>
    simp only [List.mem_cons, not_or] at hc
    rw [List.foldl_cons, ih _ hc.2]
    exact (hf a s).others c hc.1

/-- What a phase leaves in the banks of a channel it visits: what the channel's own part leaves from a state with the banks
the channel had. -/
theorem foldl_at (f : Channel → State → State) (hf : ∀ c s, OnlyChannel c s (f c s)) (l : List Channel) (hn : l.Nodup)
    (s : State) (c : Channel) (hc : c ∈ l) :
    ∃ u, u.chan c = s.chan c ∧ KeepsHost s u ∧ u.seq = s.seq ∧ (l.foldl (fun t c => f c t) s).chan c = (f c u).chan c := by
  induction l generalizing s with
  | nil => cases hc
  | cons a l ih =>
    rw [List.nodup_cons] at hn
    rw [List.foldl_cons]
    by_cases h : c = a
    · subst h
      exact ⟨s, rfl, .refl s, rfl, foldl_other f hf l _ c hn.1⟩
    · obtain ⟨u, h1, h2, h3, h4⟩ := ih hn.2 (f a s) ((List.mem_cons.1 hc).resolve_left h)
      exact ⟨u, h1.trans ((hf a s).others c h), (hf a s).keepsHost.trans h2, h3.trans (hf a s).seq, h4⟩

/-- What a phase keeps for the whole machine. -/
theorem foldl_machine (f : Channel → State → State) (hf : ∀ c s, OnlyChannel c s (f c s)) (l : List Channel) (s : State) :
    let t := l.foldl (fun t c => f c t) s
    KeepsHost s t ∧ t.seq = s.seq ∧ t.out = s.out ∧ t.ch = s.ch := by
  induction l generalizing s with
  | nil => exact ⟨.refl s, rfl, rfl, rfl⟩
  | cons a l ih =>
    obtain ⟨k, q, o, h⟩ := ih (f a s)
    exact ⟨(hf a s).keepsHost.trans k, q.trans (hf a s).seq, o.trans (hf a s).out, h.trans (hf a s).ch⟩

theorem channels_nodup (s : State) : s.channels.Nodup := by
  unfold State.channels; cases s.song.variant <;> decide

theorem mem_channels (s : State) (c : Channel) : c ∈ s.channels ↔ c.val < s.nch := by
  unfold State.channels State.nch; cases s.song.variant <;> revert c <;> decide

/-- A property that every cell keeps, and that does not look at the loop variable, the loop over the cells keeps; and it
answers a next state if every cell does. -/
theorem runChannels_keeps (P : State → Prop) (f : State → Result) (hf : ∀ s, P s → ∃ t, f s = .next t ∧ P t)
    (hc : ∀ s c, P s → P { s with ch := c }) (l : List Channel) (s : State) (h : P s) :
    ∃ t, runChannels f l s = .next t ∧ P t := by
  induction l generalizing s with
  | nil => exact ⟨_, rfl, hc s 0 h⟩
  | cons c l ih =>
    obtain ⟨t, ht, hp⟩ := hf _ (hc s c h)
    obtain ⟨u, hu, hq⟩ := ih t hp
    exact ⟨u, by simp [runChannels, ht, hu], hq⟩

end Sys2Proof.Machine
end

