-- ==== Sys2Proof/Laws/Invariant.lean ====
section
/-! SUPPORT. The legal values of a channel's registers are kept by each operation of a cell, of a tick and of a frame. -/

namespace Sys2Proof.Machine

/-! ## Moving the invariant between states -/

theorem ChanInv.congr {s t : State} {c : Channel} (h : ChanInv s c) (hs : t.song = s.song)
    (hk : t.cr.stereoMix = s.cr.stereoMix) (hc : t.cfg = s.cfg) (e : t.chan c = s.chan c) : ChanInv t c := by
  have hv : t.voice c = s.voice c := congrArg Chan.v e
  have hy : t.synth c = s.synth c := congrArg Chan.y e
  have hm : t.mixer c = s.mixer c := congrArg Chan.m e
  have hr : t.scope c = s.scope c := congrArg Chan.sc e
  obtain ⟨a, b, d, l, w, f, g⟩ := h
  constructor
  · rw [hs, hv]; exact a
  · rw [hs, hk, hm]; exact b
  · rw [hv, hm, hy]; exact d
  · rw [hy]; exact l
  · rw [hs, hv, hy]; exact w
  · rw [hr, hc]; exact f
  · rw [hr, hc]; exact g

/-- A change of one channel's banks and of STATUS bits 0 to 3 keeps the state legal if it keeps that channel legal. -/
theorem Inv.onlyChannel {c : Channel} {s t : State} (h : Inv s) (o : OnlyChannel c s t) (hb : t.cr.status.toNat < 16)
    (hc : ChanInv s c → ChanInv t c) : Inv t where
  cfg := by rw [o.cfg]; exact h.cfg
  song := by rw [o.song]; exact h.song
  held := by rw [o.loaded]; exact h.held
  rate := by rw [o.sampleRate]; exact h.rate
  stereo := by rw [o.stereoMix]; exact h.stereo
  status := hb
  seq := by rw [o.song, o.sampleRate, o.seq]; exact h.seq
  chans := by
    intro d hd
    have hd' : d ∈ s.channels := by simpa [State.channels, o.song] using hd
    by_cases e : d = c
    · subst e; exact hc (h.chans d hd')
    · exact (h.chans d hd').congr o.song o.stereoMix o.cfg (o.others d e)

theorem Inv.setSeq {s : State} (h : Inv s) (q : Seq) (hq : SeqInv s.song s.cr.sampleRate q) : Inv (s.setSeq q) :=
  ⟨h.cfg, h.song, h.held, h.rate, h.stereo, h.status, hq,
    fun c hc => (h.chans c hc).congr rfl rfl rfl rfl⟩

theorem flag_status_lt (e : Event) (s : State) (h : s.cr.status.toNat < 16) : (flag e s).cr.status.toNat < 16 := by
  simp only [flag]
  rw [BitVec.toNat_or]
  apply Nat.or_lt_two_pow (n := 4) h
  cases e <;> decide

theorem flagIf_status_lt (b : Bool) (e : Event) (s : State) (h : s.cr.status.toNat < 16) :
    (flagIf b e s).cr.status.toNat < 16 := by
  unfold flagIf; split
  · exact flag_status_lt e s h
  · exact h

theorem Inv.flag {s : State} (h : Inv s) (e : Event) : Inv (Machine.flag e s) :=
  h.onlyChannel (flag_onlyChannel 0 e s) (flag_status_lt e s h.status) (fun k => k.congr rfl rfl rfl rfl)

theorem Inv.flagIf {s : State} (h : Inv s) (b : Bool) (e : Event) : Inv (Machine.flagIf b e s) := by
  unfold Machine.flagIf; split
  · exact h.flag e
  · exact h

/-! ## Voices -/

theorem ChanInv.setVoice {s : State} {c : Channel} (h : ChanInv s c) (v : Voice) (hv : VoiceInv s.song v)
    (he : v.isSynth = (s.voice c).isSynth) : ChanInv (s.setVoice c v) c := by
  constructor
  · simpa using hv
  · simpa using h.mixer
  · simp only [voice_setVoice, mixer_setVoice, synth_setVoice, he]; exact h.synthLoop
  · simpa using h.wlen
  · simp only [voice_setVoice, synth_setVoice, setVoice_song, he]; exact h.wave
  · simpa using h.ring
  · simpa using h.wp

theorem ChanInv.setMixer {s : State} {c : Channel} (h : ChanInv s c) (m : Mixer)
    (hm : MixerInv s.song.variant s.cr.stereoMix c m) (he : m.loopValid = (s.mixer c).loopValid) :
    ChanInv (s.setMixer c m) c := by
  constructor
  · simpa using h.voice
  · simpa using hm
  · simp only [voice_setMixer, mixer_setMixer, synth_setMixer, he]; exact h.synthLoop
  · simpa using h.wlen
  · simpa using h.wave
  · simpa using h.ring
  · simpa using h.wp

theorem ChanInv.setSynth {s : State} {c : Channel} (h : ChanInv s c) (y : Synth) (he : y.wlen = (s.synth c).wlen)
    (hw : y.wave = (s.synth c).wave) : ChanInv (s.setSynth c y) c := by
  constructor
  · simpa using h.voice
  · simpa using h.mixer
  · simp only [voice_setSynth, mixer_setSynth, synth_setSynth, he]; exact h.synthLoop
  · simp only [synth_setSynth, he]; exact h.wlen
  · simp only [voice_setSynth, synth_setSynth, setSynth_song, hw]; exact h.wave
  · simpa using h.ring
  · simpa using h.wp

theorem ChanInv.setDv {s : State} {c : Channel} (h : ChanInv s c) (d : Int) : ChanInv (s.setDv c d) c := by
  constructor
  · simpa using h.voice
  · simpa using h.mixer
  · simpa using h.synthLoop
  · simpa using h.wlen
  · simpa using h.wave
  · simpa using h.ring
  · simpa using h.wp

theorem ChanInv.flag {s : State} {c : Channel} (h : ChanInv s c) (e : Event) : ChanInv (Machine.flag e s) c :=
  h.congr rfl rfl rfl rfl

theorem ChanInv.flagIf {s : State} {c : Channel} (h : ChanInv s c) (b : Bool) (e : Event) :
    ChanInv (Machine.flagIf b e s) c := by
  unfold Machine.flagIf; split
  · exact h.flag e
  · exact h

/-- An instrument of a song that meets the load preconditions has a number of the song and a waveform of the song. -/
theorem instrumentAt_spec {g : Song} (hg : g.wf = true) {n : Nat} {i : Instrument} (h : g.instrumentAt n = some i) :
    n ≤ g.numInstr ∧ i.wave.toNat < g.numWaves := by
  unfold Song.instrumentAt at h
  split at h
  · cases h
  · rename_i hn
    have hlt := (List.getElem?_eq_some_iff.1 h).1
    have hmem : i ∈ g.instruments := List.mem_of_getElem? h
    simp only [Song.wf, Bool.and_eq_true, List.all_eq_true] at hg
    have hi := hg.1.1.2 i hmem
    simp only [Instrument.wf, decide_eq_true_eq] at hi
    exact ⟨by unfold Song.numInstr; omega, hi⟩

theorem latchEffect_chanInv (c : Channel) (f : CellFields) (s : State) (h : ChanInv s c) : ChanInv (latchEffect c f s) c :=
  h.setVoice _ { h.voice with } rfl

theorem flagReserved_chanInv (c : Channel) (f : CellFields) (s : State) (h : ChanInv s c) : ChanInv (flagReserved f s) c :=
  (h.flagIf _ _).flagIf _ _

theorem resolveInstrument_chanInv (c : Channel) (n : BitVec 6) (s : State) (hg : s.song.wf = true) (h : ChanInv s c) :
    ChanInv (resolveInstrument c n s) c := by
  unfold resolveInstrument
  split
  · exact h
  · split
    · exact h.flag _
    · rename_i i hi
      exact h.setVoice _ { h.voice with inst := (instrumentAt_spec hg hi).1, volume := clampVolume_le _ } rfl

theorem portaCapture_chanInv (c : Channel) (n : BitVec 6) (s : State) (h : ChanInv s c) : ChanInv (portaCapture c n s) c :=
  h.setVoice _ { h.voice with portaTarget := periodOf_legal _ _ _ } rfl

theorem triggerPitch_chanInv (c : Channel) (s : State) (h : ChanInv s c) : ChanInv (triggerPitch c s) c := by
  unfold triggerPitch
  simp only []
  refine ChanInv.setMixer (ChanInv.setVoice h _ ?_ ?_) _ ?_ ?_
  · exact { h.voice with
      period := periodOf_legal _ _ _
      arpOut := periodOf_legal _ _ _
      arpPos := by simp
      arpCursor := fun a => ⟨(h.voice.arpCursor a).1, (h.voice.arpCursor a).1⟩ }
  · rfl
  · exact { h.mixer with phase := le_refl _ }
  · simp

theorem silence_chanInv (c : Channel) (s : State) (h : ChanInv s c) : ChanInv (silence c s) c :=
  h.setMixer _ { h.mixer with } rfl

theorem triggerSample_chanInv (c : Channel) (i : Instrument) (b : SampleBody) (s : State) (hg : 1 ≤ s.cfg.loopValidMinWords)
    (h : ChanInv s c) : ChanInv (triggerSample c i b (s.setVoice c { s.voice c with isSynth := false })) c := by
  have key : ChanInv ((s.setVoice c { s.voice c with isSynth := false }).setMixer c
      (sampleRegions s.cfg i.wave b (s.mixer c))) c := by
    constructor
    · simpa using { h.voice with : VoiceInv s.song { s.voice c with isSynth := false } }
    · simp only [setMixer_song, setMixer_cr, setVoice_song, setVoice_cr, mixer_setMixer]
      refine { h.mixer with loopLen := ?_ }
      simp only [sampleRegions, decide_eq_true_eq, BitVec.toNat_ofNat]
      have := b.loopLen.isLt
      omega
    · simp
    · simpa using h.wlen
    · simpa using h.wave.imp_right fun k => k.1
    · simpa using h.ring
    · simpa using h.wp
  unfold triggerSample
  simp only [setVoice_cfg, mixer_setVoice]
  split
  · exact key.setSynth _ rfl rfl
  · exact key.setSynth _ rfl rfl

theorem triggerSynth_chanInv (c : Channel) (i : Instrument) (b : SynthBody) (s : State) (hw : i.wave.toNat < s.song.numWaves)
    (h : ChanInv s c) :
    ChanInv (triggerSynth c i b (s.setVoice c { s.voice c with isSynth := true })) c := by
  have hl := b.waveLen.isLt
  constructor
  · simpa [triggerSynth] using { h.voice with : VoiceInv s.song { s.voice c with isSynth := true } }
  · simp only [triggerSynth, setMixer_song, setMixer_cr, setSynth_song, setSynth_cr, setVoice_song, setVoice_cr,
      mixer_setMixer, mixer_setVoice]
    refine { h.mixer with loopLen := ?_ }
    simp only [synthRegions, decide_eq_true_eq, BitVec.toNat_ofNat]
    omega
  · intro _
    simp only [triggerSynth, mixer_setMixer, synth_setMixer, synth_setSynth, synthRegions, armEnvelope, synthRegisters,
      BitVec.toNat_ofNat, decide_eq_decide]
    omega
  · simp only [triggerSynth, synth_setMixer, synth_setSynth, armEnvelope, synthRegisters, BitVec.toNat_ofNat]
    omega
  · left; simpa [triggerSynth, armEnvelope, synthRegisters] using hw
  · simpa [triggerSynth] using h.ring
  · simpa [triggerSynth] using h.wp

theorem triggerInstrument_chanInv (c : Channel) (s : State) (hs : s.song.wf = true) (hg : 1 ≤ s.cfg.loopValidMinWords)
    (h : ChanInv s c) : ChanInv (triggerInstrument c s) c := by
  unfold triggerInstrument
  split
  · exact silence_chanInv c s h
  · split
    · exact (silence_chanInv c s h).flag _
    · rename_i i hi
      split
      · exact triggerSample_chanInv c _ _ s hg h
      · exact triggerSynth_chanInv c _ _ s (instrumentAt_spec hs hi).2 h

theorem trigger_chanInv (c : Channel) (s : State) (hs : s.song.wf = true) (hg : 1 ≤ s.cfg.loopValidMinWords)
    (h : ChanInv s c) : ChanInv (trigger c s) c :=
  triggerInstrument_chanInv c _ hs hg (triggerPitch_chanInv c s h)

theorem sampleOffset_chanInv (c : Channel) (arg : Byte) (s : State) (h : ChanInv s c) : ChanInv (sampleOffset c arg s) c := by
  unfold sampleOffset
  split
  · exact h
  · unfold offsetRegion
    split
    · exact h.setMixer _ { h.mixer with } rfl
    · exact h.setMixer _ { h.mixer with } rfl

theorem triggerNote_chanInv (c : Channel) (f : CellFields) (s : State) (hs : s.song.wf = true)
    (hg : 1 ≤ s.cfg.loopValidMinWords) (h : ChanInv s c) : ChanInv (triggerNote c f s) c := by
  simp only [triggerNote]
  have a : ChanInv (trigger c (s.setVoice c { s.voice c with note := f.note })) c :=
    trigger_chanInv c _ hs hg (h.setVoice _ { h.voice with } rfl)
  generalize trigger c (s.setVoice c { s.voice c with note := f.note }) = t at a
  have b : ChanInv (if isTonePorta s.cfg.codes f.fx
      then t.setVoice c { t.voice c with portaTarget := (t.voice c).period } else t) c := by
    split
    · exact a.setVoice _ { a.voice with portaTarget := a.voice.period } rfl
    · exact a
  split
  · exact sampleOffset_chanInv c _ _ b
  · exact b

theorem loadNote_chanInv (c : Channel) (f : CellFields) (p : BitVec 6) (s : State) (hs : s.song.wf = true)
    (hg : 1 ≤ s.cfg.loopValidMinWords) (h : ChanInv s c) : ChanInv (loadNote c f p s) c := by
  unfold loadNote
  split
  · exact h
  · split
    · exact portaCapture_chanInv c _ s h
    · exact triggerNote_chanInv c f s hs hg h

theorem arpEntryAt_ofList (l : List Nibble) (i : Nat) (h : l.length ≤ 8) :
    arpEntryAt (arpListOf l) i = match l[i]? with
      | some n => n.setWidth 8
      | none => arpSentinel := by
  unfold arpEntryAt arpListOf
  split
  · exact Vector.getElem_ofFn _
  · rw [List.getElem?_eq_none (by omega)]

theorem nibble_entry_nonneg (n : Nibble) : 0 ≤ (n.setWidth 8).toInt := by
  revert n; decide

/-- The offset list of an ARP cell has at most eight entries. -/
theorem arpOffsets_length (s : State) (k : Nibble) (arg : Byte) : (arpOffsets s k arg).length ≤ 8 := by
  unfold arpOffsets
  split
  · exact le_trans (List.takeWhile_prefix _).length_le (by simp [Song.arpNibbles])
  · simp

/-! ## The arpeggio setup -/

theorem cellOffsets_off (s : State) (f : CellFields) (h : f.fx ≠ s.cfg.codes.arp ∨ (f.arg = 0 ∧ f.arpidx = 0)) :
    cellOffsets s f = [] := by
  unfold cellOffsets
  rcases h with h | ⟨h1, h2⟩
  · rw [if_pos h]
  · simp [h1, h2]

theorem cellOffsets_operands (s : State) (f : CellFields) (h : f.fx = s.cfg.codes.arp) (h2 : f.arg ≠ 0) :
    cellOffsets s f = [0, argX f.arg, argY f.arg] := by
  unfold cellOffsets
  rw [if_neg (by simpa using h), if_pos h2]

theorem cellOffsets_table (s : State) (f : CellFields) (h : f.fx = s.cfg.codes.arp) (h2 : f.arg = 0) (h3 : f.arpidx ≠ 0) :
    cellOffsets s f = (s.song.arpNibbles f.arpidx.toNat).takeWhile (fun n => n != s.cfg.arpEnd) := by
  unfold cellOffsets
  rw [if_neg (by simpa using h), if_neg (by simpa using h2), if_neg h3]

theorem withArpeggio_nil (v : Voice) : withArpeggio [] v = { v with arpOn := false } := by simp [withArpeggio]

/-- The entry under a cursor is the sentinel exactly past the list. -/
theorem arpEntryAt_neg (l : List Nibble) (hl : l.length ≤ 8) (k : Nat) :
    (arpEntryAt (arpListOf l) k).toInt < 0 ↔ l.length ≤ k := by
  rw [arpEntryAt_ofList l k hl]
  by_cases hk : k < l.length
  · simp only [List.getElem?_eq_getElem hk]
    have := nibble_entry_nonneg l[k]
    omega
  · simp only [List.getElem?_eq_none (Nat.le_of_not_lt hk)]
    exact ⟨fun _ => Nat.le_of_not_lt hk, fun _ => by decide⟩

theorem armArpeggio_eq (l : List Nibble) (hl : l.length ≤ 8) (hn : l ≠ []) (v : Voice) :
    armArpeggio l v = withArpeggio l v := by
  have hp : 0 < l.length := List.length_pos_iff.2 hn
  unfold armArpeggio withArpeggio
  simp only [hn, if_false]
  cases v.arpOn
  · simp [arpEntryAt_neg l hl]
  · simp only [if_true, arpEntryAt_neg l hl, true_and]
    by_cases h : v.arpPos.toNat < l.length
    · simp [h, Nat.not_le.2 h]
    · simp [h, Nat.le_of_not_lt h]

/-- All that ArpSetup does: it puts the latched cell's offset list in force, or the arpeggio off where there is none. -/
theorem arpSetup_eq (c : Channel) (s : State) :
    arpSetup c s = s.setVoice c (withArpeggio
      (cellOffsets s ⟨(s.voice c).arpidx, 0, 0, (s.voice c).fx, (s.voice c).arg⟩) (s.voice c)) := by
  unfold arpSetup
  simp only []
  by_cases h0 : (s.voice c).fx ≠ s.cfg.codes.arp ∨ ((s.voice c).arg = 0 ∧ (s.voice c).arpidx = 0)
  · rw [if_pos h0, cellOffsets_off _ _ h0, withArpeggio_nil]
  · rw [if_neg h0]
    have h1 : (s.voice c).fx = s.cfg.codes.arp := by by_contra h; exact h0 (.inl h)
    have hl := arpOffsets_length s (s.voice c).arpidx (s.voice c).arg
    have e : arpOffsets s (s.voice c).arpidx (s.voice c).arg =
        cellOffsets s ⟨(s.voice c).arpidx, 0, 0, (s.voice c).fx, (s.voice c).arg⟩ := by
      unfold arpOffsets
      by_cases h2 : (s.voice c).arg = 0
      · rw [cellOffsets_table _ _ h1 h2 (fun h3 => h0 (.inr ⟨h2, h3⟩)), if_pos h2]
      · rw [cellOffsets_operands _ _ h1 h2, if_neg h2]
    rw [e] at hl ⊢
    generalize cellOffsets s _ = l at hl
    cases l with
    | nil => simp only []; rw [withArpeggio_nil]
    | cons a l => simp only []; rw [armArpeggio_eq _ hl (by simp)]

theorem armArpeggio_voiceInv (g : Song) (l : List Nibble) (hl : l.length ≤ 8) (hn : l ≠ []) (v : Voice) (h : VoiceInv g v) :
    VoiceInv g (armArpeggio l v) := by
  have first : 0 ≤ (arpEntryAt (arpListOf l) 0).toInt := by
    rw [arpEntryAt_ofList l 0 hl]
    cases l with
    | nil => exact absurd rfl hn
    | cons n l => exact nibble_entry_nonneg n
  have last : arpEntryAt (arpListOf l) 8 = arpSentinel := by
    rw [arpEntryAt_ofList l 8 hl, List.getElem?_eq_none (by omega)]
  cases hon : v.arpOn <;> simp only [armArpeggio, hon, Bool.false_eq_true, if_false, if_true]
  · refine { h with arpOut := h.period, arpEnd := last, arpPos := ?_, arpCursor := fun _ => ⟨first, ?_⟩ }
    · split <;> simp
    · simp only []; split <;> exact first
  · refine { h with arpEnd := last, arpPos := ?_, arpCursor := fun _ => ⟨first, ?_⟩ }
    · simp only []; split
      · simp
      · exact h.arpPos
    · simp only []; split
      · exact first
      · omega

theorem arpSetup_chanInv (c : Channel) (s : State) (h : ChanInv s c) : ChanInv (arpSetup c s) c := by
  have off : ChanInv (s.setVoice c { s.voice c with arpOn := false }) c :=
    h.setVoice _ { h.voice with arpCursor := nofun } rfl
  simp only [arpSetup]
  split
  · exact off
  · have hl := arpOffsets_length s (s.voice c).arpidx (s.voice c).arg
    split
    · exact off
    · rename_i hne
      refine h.setVoice _ (armArpeggio_voiceInv _ _ hl (by intro e; exact hne e) _ h.voice) ?_
      unfold armArpeggio; split <;> rfl

/-- A row load keeps its channel legal. -/
theorem rowLoad_chanInv (c : Channel) (f : CellFields) (s : State) (hs : s.song.wf = true)
    (hg : 1 ≤ s.cfg.loopValidMinWords) (h : ChanInv s c) : ChanInv (rowLoad c f s) c := by
  unfold rowLoad
  have o : OnlyChannel c s (flagReserved f (latchEffect c f s)) :=
    (latchEffect_onlyChannel c f s).trans (flagReserved_onlyChannel c f _)
  have a : ChanInv (flagReserved f (latchEffect c f s)) c := flagReserved_chanInv c f _ (latchEffect_chanInv c f s h)
  generalize flagReserved f (latchEffect c f s) = t at o a
  refine arpSetup_chanInv c _ (loadNote_chanInv c f _ _ ?_ ?_ (resolveInstrument_chanInv c _ t (by rw [o.song]; exact hs) a))
  · rw [(resolveInstrument_onlyChannel c _ _).song, o.song]; exact hs
  · rw [(resolveInstrument_onlyChannel c _ _).cfg, o.cfg]; exact hg

/-! ## Effects -/

theorem volSlide_chanInv (c : Channel) (x y : Nibble) (s : State) (h : ChanInv s c) : ChanInv (volSlide c x y s) c := by
  rw [volSlide_eq]; exact h.setVoice _ { h.voice with volume := clampVolume_le _ } rfl

theorem tonePortaStep_chanInv (c : Channel) (s : State) (h : ChanInv s c) : ChanInv (tonePortaStep c s) c :=
  h.setVoice _ { h.voice with period := portaStepPeriod_legal _ h.voice.period h.voice.portaTarget } rfl

theorem vibratoStep_chanInv (c : Channel) (s : State) (h : ChanInv s c) : ChanInv (vibratoStep c s) c := by
  unfold vibratoStep
  exact (h.setDv _).setVoice _ { h.voice with } (by simp)

theorem slidePeriod_chanInv (c : Channel) (d : Int) (s : State) (h : ChanInv s c) : ChanInv (slidePeriod c d s) c := by
  unfold slidePeriod withPitch
  split
  · exact h
  · exact h.setVoice _ { h.voice with period := clampPeriod_legal _ } rfl

theorem tonePorta_chanInv (c : Channel) (arg : Byte) (s : State) (h : ChanInv s c) : ChanInv (tonePorta c arg s) c := by
  unfold tonePorta withPitch
  split
  · exact h
  · refine tonePortaStep_chanInv c _ ?_
    split
    · exact h.setVoice _ { h.voice with } rfl
    · exact h

theorem tonePortaVslide_chanInv (c : Channel) (x y : Nibble) (s : State) (h : ChanInv s c) :
    ChanInv (tonePortaVslide c x y s) c := by
  unfold tonePortaVslide withPitch
  split
  · exact h
  · exact volSlide_chanInv c x y _ (tonePortaStep_chanInv c s h)

theorem withVibDepth_high (a : Byte) (d : Nibble) (h : a.extractLsb' 6 2 = 0) : (withVibDepth a d).extractLsb' 6 2 = 0 := by
  revert a d; unfold withVibDepth; decide

theorem withVibSelect_high (a : Byte) (d : BitVec 2) (h : a.extractLsb' 6 2 = 0) :
    (withVibSelect a d).extractLsb' 6 2 = 0 := by
  revert a d; unfold withVibSelect; decide

theorem vibrato_chanInv (c : Channel) (x y : Nibble) (s : State) (h : ChanInv s c) : ChanInv (vibrato c x y s) c := by
  unfold vibrato
  refine vibratoStep_chanInv c _ (h.setVoice _ { h.voice with vibAmp := ?_ } rfl)
  simp only []
  split
  · exact withVibDepth_high _ _ h.voice.vibAmp
  · exact h.voice.vibAmp

/-! ## The tick's engines -/

theorem stepArpeggio_voiceInv (g : Song) (cfg : Config) (v : Voice) (h : VoiceInv g v) : VoiceInv g (stepArpeggio cfg v) := by
  unfold stepArpeggio
  split
  · exact h
  · rename_i ho
    have on : v.arpOn = true := by
      cases e : v.arpOn
      · exact absurd (.inl e) ho
      · rfl
    split
    · exact { h with }
    · have hp := h.arpPos
      have hc := h.arpCursor on
      have hk : ¬ (arpEntryAt v.arpList (v.arpPos.toNat + 1)).toInt < 0 → v.arpPos.toNat + 1 ≤ 8 := by
        intro hneg
        by_contra hgt
        apply hneg
        rw [show arpEntryAt v.arpList (v.arpPos.toNat + 1) = arpSentinel by
          unfold arpEntryAt; rw [dif_neg (by omega)]]
        decide
      refine { h with arpOut := periodOf_legal _ _ _, arpPos := ?_, arpCursor := fun _ => ⟨hc.1, ?_⟩ }
      · simp only []; split
        · simp
        · rename_i hn
          have := hk hn
          rw [BitVec.toNat_ofNat, Nat.mod_eq_of_lt (by omega)]; exact this
      · simp only []; split
        · exact hc.1
        · rename_i hn
          have := hk hn
          rw [BitVec.toNat_ofNat, Nat.mod_eq_of_lt (by omega)]; omega

theorem arpeggioTick_chanInv (c : Channel) (s : State) (h : ChanInv s c) : ChanInv (arpeggioTick c s) c := by
  refine h.setVoice _ (stepArpeggio_voiceInv _ _ _ h.voice) ?_
  unfold stepArpeggio
  split
  · rfl
  · split <;> rfl

theorem composePeriod_chanInv (c : Channel) (s : State) (h : ChanInv s c) : ChanInv (composePeriod c s) c := by
  unfold composePeriod
  simp only []
  split
  · exact h.setVoice _ { h.voice with outPeriod := .inl rfl } rfl
  · exact h.setVoice _ { h.voice with outPeriod := clampPeriod_legal _ } rfl

/-- An envelope step changes the level and the phase only. -/
theorem envelope_wave (y : Synth) : (envelope y).wlen = y.wlen ∧ (envelope y).wave = y.wave := by
  unfold envelope
  repeat' split
  all_goals exact ⟨rfl, rfl⟩

theorem envelopeStep_chanInv (c : Channel) (s : State) (h : ChanInv s c) : ChanInv (envelopeStep c s) c :=
  h.setSynth _ (envelope_wave _).1 (envelope_wave _).2

theorem waveStep_chanInv (c : Channel) (s : State) (hs : (s.voice c).isSynth = true) (h : ChanInv s c) :
    ChanInv (waveStep c s) c := by
  unfold waveStep
  simp only []
  split
  · exact h
  · split
    · exact h.setSynth _ rfl rfl
    · split
      · exact h.setSynth _ rfl rfl
      · have a : ChanInv (s.setSynth c { s.synth c with wctr := 0 }) c := h.setSynth _ rfl rfl
        unfold moveCursor
        generalize hy : ({ s.synth c with wctr := 0 } : Synth) = y at a
        have ew : y.wlen = (s.synth c).wlen := by rw [← hy]
        simp only [synth_setSynth, mixer_setSynth]
        refine ChanInv.setMixer (ChanInv.setSynth a _ ?_ ?_) _ ?_ ?_
        · simp
        · simp
        · refine { h.mixer with loopLen := ?_ }
          intro hv
          have e := h.synthLoop hs
          simp only [waveRegion] at hv
          rw [hv, eq_comm, decide_eq_true_eq, ← ew] at e
          have := y.wlen.isLt
          simp only [waveRegion, BitVec.toNat_setWidth]
          omega
        · simp [waveRegion]

theorem instrVibrato_chanInv (c : Channel) (s : State) (h : ChanInv s c) : ChanInv (instrVibrato c s) c := by
  unfold instrVibrato
  simp only []
  split
  · exact h.setSynth _ rfl rfl
  · split
    · exact h
    · refine ChanInv.setSynth (ChanInv.setVoice h _ ?_ ?_) _ ?_ ?_
      · exact { h.voice with outPeriod := clampPeriod_legal _ }
      · rfl
      · simp
      · simp

theorem synthTick_chanInv (c : Channel) (s : State) (h : ChanInv s c) : ChanInv (synthTick c s) c := by
  unfold synthTick
  split
  · rename_i hs
    exact instrVibrato_chanInv c _ (waveStep_chanInv c _ (by simpa [envelopeStep] using hs) (envelopeStep_chanInv c s h))
  · split
    · exact envelopeStep_chanInv c s h
    · exact h

/-! ## The mixer -/

theorem incOf_nonneg (cfg : Config) (r : BitVec 32) (p : BitVec 16) : 0 ≤ incOf cfg r p := by
  unfold incOf
  split
  · exact le_refl _
  · positivity

/-- The gain of legal registers is in [0, 127/128]. -/
theorem gainOf_range (cfg : Config) (var : Variant) (v : Voice) (y : Synth) (hv : v.volume.toNat ≤ volMax)
    (ht : v.trackVol.toNat ≤ volMax) : 0 ≤ gainOf cfg var v y ∧ gainOf cfg var v y ≤ 127 / 128 := by
  unfold gainOf
  have a : y.svol.toNat >>> svolShift cfg var ≤ 127 := le_trans (Nat.shiftRight_le _ _) (by have := y.svol.isLt; omega)
  have b : v.volume.toNat * (y.svol.toNat >>> svolShift cfg var) * v.trackVol.toNat ≤ 64 * 127 * 64 :=
    Nat.mul_le_mul (Nat.mul_le_mul hv a) ht
  have b' : ((v.volume.toNat * (y.svol.toNat >>> svolShift cfg var) * v.trackVol.toNat : Nat) : Rat) ≤ 64 * 127 * 64 := by
    exact_mod_cast b
  refine ⟨by positivity, ?_⟩
  rw [div_le_div_iff₀ (by norm_num) (by norm_num)]
  linarith

theorem mixerUpdate_chanInv (c : Channel) (s : State) (h : ChanInv s c) : ChanInv (mixerUpdate c s) c :=
  h.setMixer _ { h.mixer with
    inc := incOf_nonneg _ _ _
    gain := gainOf_range _ _ _ _ h.voice.volume h.voice.trackVol } rfl

theorem settleRegion_spec (var : Variant) (k : BitVec 9) (c : Channel) (m : Mixer) (h : MixerInv var k c m) :
    MixerInv var k c (settleRegion m) ∧ (settleRegion m).loopValid = m.loopValid := by
  unfold settleRegion
  split
  · rename_i hx
    simp only [Bool.and_eq_true, regionExhausted, decide_eq_true_eq] at hx
    unfold regionEnd
    split
    · refine ⟨{ h with phase := ?_ }, rfl⟩
      simp only []
      split
      · exact le_refl _
      · linarith [hx.2]
    · exact ⟨{ h with }, rfl⟩
  · exact ⟨h, rfl⟩

theorem mixChannel_chanInv (c : Channel) (s : State) (h : ChanInv s c) : ChanInv (mixChannel c s).1 c := by
  obtain ⟨a, b⟩ := settleRegion_spec _ _ _ _ h.mixer
  unfold mixChannel
  simp only []
  split
  · refine ChanInv.flagIf (ChanInv.setMixer h _ ?_ ?_) _ _
    · exact { a with phase := add_nonneg a.phase a.inc }
    · exact b
  · exact h.setMixer _ a b

theorem scopeWrite_chanInv (c : Channel) (o : Rat) (s : State) (hl : 1 ≤ s.cfg.scopeLen) (h : ChanInv s c) :
    ChanInv (scopeWrite c o s) c := by
  constructor
  · simpa [scopeWrite] using h.voice
  · simpa [scopeWrite] using h.mixer
  · simpa [scopeWrite] using h.synthLoop
  · simpa [scopeWrite] using h.wlen
  · simpa [scopeWrite] using h.wave
  · simpa [scopeWrite] using h.ring
  · simpa [scopeWrite] using Nat.mod_lt _ (by omega)

/-! ## STATUS keeps to its four bits -/

theorem resolveInstrument_status_lt (c : Channel) (n : BitVec 6) (s : State) (h : s.cr.status.toNat < 16) :
    (resolveInstrument c n s).cr.status.toNat < 16 := by
  unfold resolveInstrument
  split
  · exact h
  · split
    · exact flag_status_lt _ _ h
    · exact h

theorem triggerInstrument_status_lt (c : Channel) (s : State) (h : s.cr.status.toNat < 16) :
    (triggerInstrument c s).cr.status.toNat < 16 := by
  unfold triggerInstrument
  split
  · exact h
  · split
    · exact flag_status_lt _ _ h
    · split
      · simp only [triggerSample]; split <;> exact h
      · exact h

theorem sampleOffset_cr (c : Channel) (arg : Byte) (s : State) : (sampleOffset c arg s).cr = s.cr := by
  unfold sampleOffset; split <;> rfl

theorem triggerNote_status_lt (c : Channel) (f : CellFields) (s : State) (h : s.cr.status.toNat < 16) :
    (triggerNote c f s).cr.status.toNat < 16 := by
  simp only [triggerNote]
  have a : (trigger c (s.setVoice c { s.voice c with note := f.note })).cr.status.toNat < 16 :=
    triggerInstrument_status_lt c _ h
  generalize trigger c (s.setVoice c { s.voice c with note := f.note }) = t at a
  split
  · rw [sampleOffset_cr]; split <;> exact a
  · split <;> exact a

theorem arpSetup_cr (c : Channel) (s : State) : (arpSetup c s).cr = s.cr := by
  simp only [arpSetup]
  split
  · rfl
  · split <;> rfl

/-- A row load sets no STATUS bit but 0 to 3. -/
theorem rowLoad_status_lt (c : Channel) (f : CellFields) (s : State) (h : s.cr.status.toNat < 16) :
    (rowLoad c f s).cr.status.toNat < 16 := by
  simp only [rowLoad, arpSetup_cr]
  have a : (resolveInstrument c f.inst (flagReserved f (latchEffect c f s))).cr.status.toNat < 16 :=
    resolveInstrument_status_lt c _ _ (flagIf_status_lt _ _ _ (flagIf_status_lt _ _ _ h))
  generalize resolveInstrument c f.inst (flagReserved f (latchEffect c f s)) = t at a
  unfold loadNote
  split
  · exact a
  · split
    · exact a
    · exact triggerNote_status_lt c f t a

theorem mixChannel_status_lt (c : Channel) (s : State) (h : s.cr.status.toNat < 16) :
    (mixChannel c s).1.cr.status.toNat < 16 := by
  simp only [mixChannel]
  split
  · exact flagIf_status_lt _ _ _ h
  · exact h

/-! ## The memory of the reset state -/

theorem blank_song_wf : Song.blank.wf = true := by decide

theorem reset_memory_wf :
    State.reset.song.pat.wf = true ∧ State.reset.song.pos.wf = true ∧ State.reset.song.arp.wf = true := by decide

end Sys2Proof.Machine
end

