-- ==== Sys2Proof/Laws/PerInstr.lean ====
section
/-! SUPPORT. What is said of every instruction as syntax, one lemma per constructor. -/

namespace Sys2Proof

/-- The five fields of a cell survive its word (spec/30_encoding.md R140, R141). -/
theorem fieldsOf_wordOf (f : CellFields) : fieldsOf (wordOf f) = f := by
  obtain ⟨a, n, i, x, g⟩ := f
  simp only [fieldsOf, wordOf, CellFields.mk.injEq]
  refine ⟨?_, ?_, ?_, ?_, ?_⟩
  all_goals
    apply BitVec.eq_of_getLsbD_eq
    intro k hk
    simp only [BitVec.getLsbD_append, BitVec.getLsbD_extractLsb']
    interval_cases k <;> simp

/-- The pad bits of an encoded cell are 0 (spec/30_encoding.md R172). -/
theorem wordOf_pad (f : CellFields) : (wordOf f).extractLsb' 14 2 = 0 := by
  apply BitVec.eq_of_getLsbD_eq
  intro k hk
  simp only [wordOf, BitVec.getLsbD_append, BitVec.getLsbD_extractLsb']
  interval_cases k <;> simp

/-- The nibbles of an argument byte built from two nibbles (spec/00_scope.md R17). -/
theorem argX_argOf (x y : Nibble) : argX (argOf x y) = x := by
  revert x y; unfold argX argOf; decide

theorem argY_argOf (x y : Nibble) : argY (argOf x y) = y := by
  revert x y; unfold argY argOf; decide

namespace Laws.EncodeFields

/-- The word of i carries exactly i's fields, under every code map, with the pad bits 0. -/
def Statement (i : Instr) : Prop :=
  ∀ m : EffectCodeMap, fieldsOf (encode m i) = i.fields m ∧ (encode m i).extractLsb' 14 2 = 0

theorem arp (h : Head) (x y : Nibble) : Statement (.arp h x y) :=
  fun _ => ⟨fieldsOf_wordOf _, wordOf_pad _⟩
theorem slideUp (h : Head) (arg : Byte) : Statement (.slideUp h arg) :=
  fun _ => ⟨fieldsOf_wordOf _, wordOf_pad _⟩
theorem slideDown (h : Head) (arg : Byte) : Statement (.slideDown h arg) :=
  fun _ => ⟨fieldsOf_wordOf _, wordOf_pad _⟩
theorem tonePorta (h : Head) (arg : Byte) : Statement (.tonePorta h arg) :=
  fun _ => ⟨fieldsOf_wordOf _, wordOf_pad _⟩
theorem vibrato (h : Head) (x y : Nibble) : Statement (.vibrato h x y) :=
  fun _ => ⟨fieldsOf_wordOf _, wordOf_pad _⟩
theorem tonePortaVslide (h : Head) (x y : Nibble) : Statement (.tonePortaVslide h x y) :=
  fun _ => ⟨fieldsOf_wordOf _, wordOf_pad _⟩
theorem vibratoVslide (h : Head) (x y : Nibble) : Statement (.vibratoVslide h x y) :=
  fun _ => ⟨fieldsOf_wordOf _, wordOf_pad _⟩
theorem sampleOffset (h : Head) (arg : Byte) : Statement (.sampleOffset h arg) :=
  fun _ => ⟨fieldsOf_wordOf _, wordOf_pad _⟩
theorem volumeSlide (h : Head) (x y : Nibble) : Statement (.volumeSlide h x y) :=
  fun _ => ⟨fieldsOf_wordOf _, wordOf_pad _⟩
theorem positionJump (h : Head) (arg : Byte) : Statement (.positionJump h arg) :=
  fun _ => ⟨fieldsOf_wordOf _, wordOf_pad _⟩
theorem setVolume (h : Head) (arg : Byte) : Statement (.setVolume h arg) :=
  fun _ => ⟨fieldsOf_wordOf _, wordOf_pad _⟩
theorem patternBreak (h : Head) (arg : Byte) : Statement (.patternBreak h arg) :=
  fun _ => ⟨fieldsOf_wordOf _, wordOf_pad _⟩
theorem extra (h : Head) (x y : Nibble) : Statement (.extra h x y) :=
  fun _ => ⟨fieldsOf_wordOf _, wordOf_pad _⟩
theorem setSpeed (h : Head) (arg : Byte) : Statement (.setSpeed h arg) :=
  fun _ => ⟨fieldsOf_wordOf _, wordOf_pad _⟩
theorem newVolume (h : Head) (arg : Byte) : Statement (.newVolume h arg) :=
  fun _ => ⟨fieldsOf_wordOf _, wordOf_pad _⟩
theorem waveSpeed (h : Head) (arg : Byte) : Statement (.waveSpeed h arg) :=
  fun _ => ⟨fieldsOf_wordOf _, wordOf_pad _⟩
theorem arpSpeed (h : Head) (arg : Byte) : Statement (.arpSpeed h arg) :=
  fun _ => ⟨fieldsOf_wordOf _, wordOf_pad _⟩
theorem fineSlideUp (h : Head) (arg : Byte) : Statement (.fineSlideUp h arg) :=
  fun _ => ⟨fieldsOf_wordOf _, wordOf_pad _⟩
theorem fineSlideDown (h : Head) (arg : Byte) : Statement (.fineSlideDown h arg) :=
  fun _ => ⟨fieldsOf_wordOf _, wordOf_pad _⟩
theorem trackVolume (h : Head) (arg : Byte) : Statement (.trackVolume h arg) :=
  fun _ => ⟨fieldsOf_wordOf _, wordOf_pad _⟩
theorem waveMode (h : Head) (arg : Byte) : Statement (.waveMode h arg) :=
  fun _ => ⟨fieldsOf_wordOf _, wordOf_pad _⟩
theorem extEvent (h : Head) (arg : Byte) : Statement (.extEvent h arg) :=
  fun _ => ⟨fieldsOf_wordOf _, wordOf_pad _⟩
theorem filter (h : Head) (y : Nibble) : Statement (.filter h y) :=
  fun _ => ⟨fieldsOf_wordOf _, wordOf_pad _⟩
theorem vibWave (h : Head) (y : Nibble) : Statement (.vibWave h y) :=
  fun _ => ⟨fieldsOf_wordOf _, wordOf_pad _⟩
theorem patternLoop (h : Head) (y : Nibble) : Statement (.patternLoop h y) :=
  fun _ => ⟨fieldsOf_wordOf _, wordOf_pad _⟩
theorem patternDelay (h : Head) (y : Nibble) : Statement (.patternDelay h y) :=
  fun _ => ⟨fieldsOf_wordOf _, wordOf_pad _⟩

end Laws.EncodeFields

end Sys2Proof
end

