-- ==== Sys2Proof/Machine/CellText.lean ====
section
/-! DEFINITION. The written form of a cell: the digits form and the mnemonic form (spec/30_encoding.md R170, R171,
R143). Printing only; parsing text is the assembler's business, outside the block. -/

namespace Sys2Proof.Machine

/-- A hexadecimal digit, capitals as in `0C40` (30_encoding.md R170). -/
def hexDigit (n : Nat) : String :=
  ["0", "1", "2", "3", "4", "5", "6", "7", "8", "9", "A", "B", "C", "D", "E", "F"].getD n "0"

/-- Two hexadecimal digits. -/
def hexByte (n : Nat) : String :=
  hexDigit (n / 16) ++ hexDigit (n % 16)

/-- The name of pitch index (n-1) mod 12 (30_encoding.md R170). -/
def pitchName (k : Nat) : String :=
  ["C-", "C#", "D-", "D#", "E-", "F-", "F#", "G-", "G#", "A-", "A#", "B-"].getD k "C-"

/-- The note field as text: `---`, a name and an octave, or `#61` to `#63` (30_encoding.md R170). -/
def noteText (note : BitVec 6) : String :=
  let n := note.toNat
  if n = 0 then "---"
  else if n ≤ noteMax then pitchName ((n - 1) % 12) ++ hexDigit ((n - 1) / 12 + 1)
  else "#6" ++ hexDigit (n - 60)

/-- `<note> <inst> <arp>`: the part of a cell's text before its effect (30_encoding.md R170). -/
def headText (h : Head) : String :=
  noteText h.note ++ " " ++ hexByte h.inst.toNat ++ " " ++ hexDigit h.arpidx.toNat

/-- `<note> <inst> <arp> <fx><arg>` (30_encoding.md R170). -/
def cellText (f : CellFields) : String :=
  headText f.head ++ " " ++ hexByte f.fx.toNat ++ hexByte f.arg.toNat

/-- The head, the mnemonic and the argument of an instruction's mnemonic form: two digits of arg, one digit of y for an
Extra sub-effect (30_encoding.md R170). -/
def mnemonicParts : Instr → Head × String × String
  | .arp h x y => (h, "ARP", hexByte (argOf x y).toNat)
  | .slideUp h arg => (h, "SLIDE_UP", hexByte arg.toNat)
  | .slideDown h arg => (h, "SLIDE_DOWN", hexByte arg.toNat)
  | .tonePorta h arg => (h, "TONE_PORTA", hexByte arg.toNat)
  | .vibrato h x y => (h, "VIBRATO", hexByte (argOf x y).toNat)
  | .tonePortaVslide h x y => (h, "TONE_PORTA_VSLIDE", hexByte (argOf x y).toNat)
  | .vibratoVslide h x y => (h, "VIBRATO_VSLIDE", hexByte (argOf x y).toNat)
  | .sampleOffset h arg => (h, "SAMPLE_OFFSET", hexByte arg.toNat)
  | .volumeSlide h x y => (h, "VOLUME_SLIDE", hexByte (argOf x y).toNat)
  | .positionJump h arg => (h, "POSITION_JUMP", hexByte arg.toNat)
  | .setVolume h arg => (h, "SET_VOLUME", hexByte arg.toNat)
  | .patternBreak h arg => (h, "PATTERN_BREAK", hexByte arg.toNat)
  | .extra h x y => (h, "EXTRA", hexByte (argOf x y).toNat)
  | .setSpeed h arg => (h, "SET_SPEED", hexByte arg.toNat)
  | .newVolume h arg => (h, "NEW_VOLUME", hexByte arg.toNat)
  | .waveSpeed h arg => (h, "WAVE_SPEED", hexByte arg.toNat)
  | .arpSpeed h arg => (h, "ARP_SPEED", hexByte arg.toNat)
  | .fineSlideUp h arg => (h, "FINE_SLIDE_UP", hexByte arg.toNat)
  | .fineSlideDown h arg => (h, "FINE_SLIDE_DOWN", hexByte arg.toNat)
  | .trackVolume h arg => (h, "TRACK_VOLUME", hexByte arg.toNat)
  | .waveMode h arg => (h, "WAVE_MODE", hexByte arg.toNat)
  | .extEvent h arg => (h, "EXT_EVENT", hexByte arg.toNat)
  | .filter h y => (h, "FILTER", hexDigit y.toNat)
  | .vibWave h y => (h, "VIB_WAVE", hexDigit y.toNat)
  | .patternLoop h y => (h, "PATTERN_LOOP", hexDigit y.toNat)
  | .patternDelay h y => (h, "PATTERN_DELAY", hexDigit y.toNat)

/-- The mnemonic form, `C-3 01 0 SET_VOLUME 40` (30_encoding.md R170). -/
def mnemonicText (i : Instr) : String :=
  let p := mnemonicParts i
  headText p.1 ++ " " ++ p.2.1 ++ " " ++ p.2.2

end Sys2Proof.Machine
end

