-- ==== Sys2Proof/Tests/Slice0.lean ====
section
/-! SUPPORT. Tests: ill-formed terms, written-out words, one step of each instruction, and a witness for every statement that
has hypotheses. Expected results are from spec/95_test_vectors.md or worked by hand from the rule named. -/

set_option Elab.async false

namespace Sys2Proof.Tests

open Sys2Proof.Machine

/-! ## Well-formedness: each check refuses an ill-formed term -/

/-- 30_encoding.md R152: an `extra` cell with an assigned sub-code is ill-formed. -/
theorem test_wf_extra_refused : (Instr.extra ⟨0, 0, 0⟩ 6 2).wf EffectCodeMap.default = false := by decide
theorem test_wf_extra_reserved : (Instr.extra ⟨0, 0, 0⟩ 1 0).wf EffectCodeMap.default = true := by decide
theorem test_wf_codes_default : EffectCodeMap.default.wf = true := by decide
theorem test_wf_codes_shared_refused : { EffectCodeMap.default with vibrato := 0x03#6 }.wf = false := by decide
theorem test_wf_subcodes_shared_refused : { EffectCodeMap.default with filter := 0xE#4 }.wf = false := by decide

/-! ## The test machine -/

/-- A period table for tests only (the spec gives none): 428 for note 25 and 340 for note 29, as 95_test_vectors.md assumes. -/
def table : PeriodTable :=
  Vector.replicate 16 (((Vector.replicate 60 500#16).set 24 428).set 28 340)

def cfg : Config := { Config.default with periodTable := table, scopeLen := 4 }

theorem test_wf_config : cfg.wf = true := by decide
theorem test_wf_config_table_refused : { cfg with periodTable := Vector.replicate 16 (Vector.replicate 60 0) }.wf = false := by
  decide
theorem test_wf_config_scope_refused : { cfg with scopeLen := 0 }.wf = false := by decide
theorem test_wf_config_loop_refused : { cfg with loopValidMinWords := 0 }.wf = false := by decide
theorem test_wf_config_clock_refused : { cfg with palClock := 0 }.wf = false := by decide

def sampleBody : SampleBody := ⟨0, 1000, 500, 500⟩
def sample : Instrument := ⟨50, 0, 0, 0, 0, 0, 0, .sample sampleBody⟩
def short : Instrument := ⟨40, 0, 0, 0, 0, 0, 0, .sample ⟨0, 100, 0, 1⟩⟩
def synthBody : SynthBody := ⟨2, 2, 8, 64, 0, 1, 1, 3, 2⟩
def synthInstrument : Instrument := ⟨64, 0, 0, 40, 80, 10, 0, .synth synthBody⟩

/-- Three instruments, one waveform, three positions, two patterns; table entry 3 is 95_test_vectors.md V-ARP2's. -/
def song : Song where
  variant := .aon4
  numPositions := 3
  restart := 1
  numPatterns := 2
  pat := []
  pos := [(1, 1)]
  arp := [(12, 0x07), (13, 0xCF)]
  instruments := [sample, short, synthInstrument]
  waves := [⟨2000, [(0, 0x40), (1, 0xC0), (2, 0x20)]⟩]

theorem test_wf_song : song.wf = true := by decide
theorem test_wf_song_positions_refused : { song with numPositions := 0 }.wf = false := by decide
theorem test_wf_song_many_positions_refused : { song with numPositions := 257 }.wf = false := by decide
theorem test_wf_song_restart_refused : { song with restart := 3 }.wf = false := by decide
theorem test_wf_song_patterns_refused : { song with numPatterns := 0 }.wf = false := by decide
theorem test_wf_song_many_patterns_refused : { song with numPatterns := 257 }.wf = false := by decide
theorem test_wf_song_position_entry_refused : { song with pos := [(1, 2)] }.wf = false := by decide
theorem test_wf_song_order_refused : { song with arp := [(13, 1), (12, 1)] }.wf = false := by decide
theorem test_wf_song_zero_entry_refused : { song with pat := [(0, 0)] }.wf = false := by decide
theorem test_wf_song_pos_size_refused : { song with pos := [(3, 1)] }.wf = false := by decide
theorem test_wf_song_pat_size_refused : { song with pat := [(2048, 1)] }.wf = false := by decide
theorem test_wf_song_arp_size_refused : { song with arp := [(64, 1)] }.wf = false := by decide
theorem test_wf_song_wave_number_refused : { song with waves := [] }.wf = false := by decide
/-- 20_memory.md R108's volume range is no load precondition of R630. -/
theorem test_wf_song_volume : { song with instruments := [{ sample with volume := 65 }] }.wf = true := by decide
theorem test_wf_song_instruments_refused : { song with instruments := List.replicate 64 sample }.wf = false := by decide
theorem test_wf_song_wave_size_refused : { song with waves := [⟨2, [(2, 1)]⟩] }.wf = false := by decide
/-- 92_eei_decisions.md D53: NUM_WAVES is at most 256. -/
theorem test_wf_song_waves :
    { song with waves := List.replicate 256 ⟨0, []⟩ }.wf = true ∧
    { song with waves := List.replicate 257 ⟨0, []⟩ }.wf = false := by decide +kernel

/-- A voice that plays note 25 on instrument 1. -/
def voice : Voice :=
  { Voice.reset with inst := 1, note := 25, period := 428, outPeriod := 428, volume := 30, vibAmp := 0x18, vibSpeed := 4 }

/-- A mixer channel that plays a looping region of four bytes. -/
def mixer (panL panR : Rat) : Mixer :=
  { Mixer.reset panL panR with
    active := true, curLen := 4, loopValid := true, loopLen := 4, phase := 5 / 2, inc := 1 / 2, gain := 1 / 4 }

/-- Channel 0 plays, the others are at reset. -/
def machine : State where
  cfg := cfg
  loaded := true
  song := song
  seq := Seq.reset 48000
  chans :=
    #v[{ v := voice, y := Synth.reset, m := mixer 1 0, sc := Scope.reset 4, dv := 0 },
       Chan.reset 4 0 1, Chan.reset 4 0 1, Chan.reset 4 1 0,
       Chan.reset 4 0 0, Chan.reset 4 0 0, Chan.reset 4 0 0, Chan.reset 4 0 0]
  cr := Ctrl.reset
  out := []
  ch := 0

/-- The tick that loads the row: S.first = 1, S.tick = 0. -/
def rowTick : State := machine.setSeq { machine.seq with tick := 0, first := true, curRow := 7 }

/-- Tick 2 of a row: S.first = 0. -/
def laterTick : State := machine.setSeq { machine.seq with tick := 2 }

/-- The outcome is a next state of which p holds. -/
def nextHolds (r : Result) (p : State → Bool) : Bool :=
  match r with
  | .next t => p t
  | _ => false

def head : Head := ⟨0, 0, 0⟩

/-! ## Words written out from 30_encoding.md R140 and R151: arpidx 9 (10, 01), note 25, inst 1 -/

theorem test_decode_arp :
    decode EffectCodeMap.default 0b10011001010000010000000001000111#32 = .instr (.arp ⟨9, 25, 1⟩ 4 7) := by decide
theorem test_decode_slideUp :
    decode EffectCodeMap.default 0b10011001010000010000000100010000#32 = .instr (.slideUp ⟨9, 25, 1⟩ 0x10) := by decide
theorem test_decode_slideDown :
    decode EffectCodeMap.default 0b10011001010000010000001000010000#32 = .instr (.slideDown ⟨9, 25, 1⟩ 0x10) := by decide
theorem test_decode_tonePorta :
    decode EffectCodeMap.default 0b10011001010000010000001100100000#32 = .instr (.tonePorta ⟨9, 25, 1⟩ 0x20) := by decide
theorem test_decode_vibrato :
    decode EffectCodeMap.default 0b10011001010000010000010001001000#32 = .instr (.vibrato ⟨9, 25, 1⟩ 4 8) := by decide
theorem test_decode_tonePortaVslide :
    decode EffectCodeMap.default 0b10011001010000010000010101010010#32 = .instr (.tonePortaVslide ⟨9, 25, 1⟩ 5 2) := by decide
theorem test_decode_vibratoVslide :
    decode EffectCodeMap.default 0b10011001010000010000011000000010#32 = .instr (.vibratoVslide ⟨9, 25, 1⟩ 0 2) := by decide
theorem test_decode_sampleOffset :
    decode EffectCodeMap.default 0b10011001010000010000100100000100#32 = .instr (.sampleOffset ⟨9, 25, 1⟩ 4) := by decide
theorem test_decode_volumeSlide :
    decode EffectCodeMap.default 0b10011001010000010000101000110101#32 = .instr (.volumeSlide ⟨9, 25, 1⟩ 3 5) := by decide
theorem test_decode_positionJump :
    decode EffectCodeMap.default 0b10011001010000010000101100000010#32 = .instr (.positionJump ⟨9, 25, 1⟩ 2) := by decide
theorem test_decode_setVolume :
    decode EffectCodeMap.default 0b10011001010000010000110001000000#32 = .instr (.setVolume ⟨9, 25, 1⟩ 0x40) := by decide
theorem test_decode_patternBreak :
    decode EffectCodeMap.default 0b10011001010000010000110100010000#32 = .instr (.patternBreak ⟨9, 25, 1⟩ 0x10) := by decide
theorem test_decode_extra :
    decode EffectCodeMap.default 0b10011001010000010000111000010010#32 = .instr (.extra ⟨9, 25, 1⟩ 1 2) := by decide
theorem test_decode_setSpeed :
    decode EffectCodeMap.default 0b10011001010000010000111100110010#32 = .instr (.setSpeed ⟨9, 25, 1⟩ 0x32) := by decide
theorem test_decode_newVolume :
    decode EffectCodeMap.default 0b10011001010000010001000011111111#32 = .instr (.newVolume ⟨9, 25, 1⟩ 0xFF) := by decide
theorem test_decode_waveSpeed :
    decode EffectCodeMap.default 0b10011001010000010001000100000011#32 = .instr (.waveSpeed ⟨9, 25, 1⟩ 3) := by decide
theorem test_decode_arpSpeed :
    decode EffectCodeMap.default 0b10011001010000010001001000000010#32 = .instr (.arpSpeed ⟨9, 25, 1⟩ 2) := by decide
theorem test_decode_fineSlideUp :
    decode EffectCodeMap.default 0b10011001010000010001001100000100#32 = .instr (.fineSlideUp ⟨9, 25, 1⟩ 4) := by decide
theorem test_decode_fineSlideDown :
    decode EffectCodeMap.default 0b10011001010000010001010000000100#32 = .instr (.fineSlideDown ⟨9, 25, 1⟩ 4) := by decide
theorem test_decode_trackVolume :
    decode EffectCodeMap.default 0b10011001010000010001010110000000#32 = .instr (.trackVolume ⟨9, 25, 1⟩ 0x80) := by decide
theorem test_decode_waveMode :
    decode EffectCodeMap.default 0b10011001010000010001011000000110#32 = .instr (.waveMode ⟨9, 25, 1⟩ 6) := by decide
theorem test_decode_extEvent :
    decode EffectCodeMap.default 0b10011001010000010001011100000101#32 = .instr (.extEvent ⟨9, 25, 1⟩ 5) := by decide
theorem test_decode_filter :
    decode EffectCodeMap.default 0b10011001010000010000111000000001#32 = .instr (.filter ⟨9, 25, 1⟩ 1) := by decide
theorem test_decode_vibWave :
    decode EffectCodeMap.default 0b10011001010000010000111001000010#32 = .instr (.vibWave ⟨9, 25, 1⟩ 2) := by decide
theorem test_decode_patternLoop :
    decode EffectCodeMap.default 0b10011001010000010000111001100010#32 = .instr (.patternLoop ⟨9, 25, 1⟩ 2) := by decide
theorem test_decode_patternDelay :
    decode EffectCodeMap.default 0b10011001010000010000111011100001#32 = .instr (.patternDelay ⟨9, 25, 1⟩ 1) := by decide

/-- 95_test_vectors.md V-DEC2: the pad bits are ignored. -/
theorem test_decode_pad : decode EffectCodeMap.default 0x0000CE62#32 = decode EffectCodeMap.default 0x00000E62#32 := by decide
/-- 30_encoding.md R160 at the borders of the reserved ranges. -/
theorem test_decode_reserved :
    decode EffectCodeMap.default 0x00000700#32 = .reservedEffect ⟨0, 0, 0, 0x07, 0⟩ ∧
    decode EffectCodeMap.default 0x00001800#32 = .reservedEffect ⟨0, 0, 0, 0x18, 0⟩ ∧
    decode EffectCodeMap.default 0x00003F00#32 = .reservedEffect ⟨0, 0, 0, 0x3F, 0⟩ := by decide
/-- 20_memory.md R103: big-endian; three bytes are no cell. -/
theorem test_decode_bytes :
    decodeBytes EffectCodeMap.default [0x19, 0x01, 0x0C, 0x40] = .instr (.setVolume ⟨0, 25, 1⟩ 0x40) ∧
    decodeBytes EffectCodeMap.default [0x19, 0x01, 0x0C] = .truncated := by decide
/-- 30_encoding.md R171. -/
theorem test_pseudo_instructions :
    encode EffectCodeMap.default pseudoNop = 0x00000000#32 ∧ encode EffectCodeMap.default pseudoLoopStart = 0x00000E60#32 ∧
    encode EffectCodeMap.default (pseudoBreak 10) = 0x00000D10#32 ∧
    encode EffectCodeMap.default (pseudoJump 2) = 0x00000B02#32 := by decide
/-- 30_encoding.md R170, R172. -/
theorem test_cell_text :
    cellText (fieldsOf 0x19010C40#32) = "C-3 01 0 0C40" ∧ cellText (fieldsOf 0#32) = "--- 00 0 0000" ∧
    mnemonicText (.setVolume ⟨0, 25, 1⟩ 0x40) = "C-3 01 0 SET_VOLUME 40" := by decide
/-- 95_test_vectors.md V-BCD. -/
theorem test_break_row :
    [0x00, 0x09, 0x0A, 0x10, 0x1F, 0x59, 0x60, 0x63, 0x64, 0x99, 0xFF].map breakRow =
      [0, 9, 10, 10, 25, 59, 60, 63, 0, 0, 0] := by decide

/-! ## One step of each instruction (95_test_vectors.md 2.3 to 2.7 where a vector is named) -/

/-- V-SLIDE. -/
theorem test_slideUp : nextHolds (exec (.slideUp head 0x10) laterTick) (fun t => (t.voice 0).period == 412) = true := by
  decide
theorem test_slideUp_floor :
    nextHolds (exec (.slideUp head 0x10) (laterTick.setVoice 0 { voice with period := 110 }))
      (fun t => (t.voice 0).period == 103) = true := by decide
theorem test_slideDown : nextHolds (exec (.slideDown head 0x08) laterTick) (fun t => (t.voice 0).period == 436) = true := by
  decide
theorem test_slideDown_ceiling :
    nextHolds (exec (.slideDown head 0x10) (laterTick.setVoice 0 { voice with period := 65530 }))
      (fun t => (t.voice 0).period == 65535) = true := by decide
/-- V-PORTA. -/
theorem test_tonePorta :
    nextHolds (exec (.tonePorta head 0x20) (laterTick.setVoice 0 { voice with portaTarget := 340 }))
      (fun t => (t.voice 0).period == 396 && (t.voice 0).portaSpeed == 0x20) = true := by decide
/-- V-RL5. -/
theorem test_tonePorta_captures :
    nextHolds (exec (.tonePorta ⟨0, 29, 0⟩ 0x08) rowTick)
      (fun t => (t.voice 0).portaTarget == 340 && (t.voice 0).note == 29 && (t.voice 0).period == 428) = true := by decide
/-- V-VIB tick 2: index 4, delta (97*8)>>7 = 6. -/
theorem test_vibrato :
    nextHolds (exec (.vibrato head 4 8) (laterTick.setVoice 0 { voice with vibAmp := 0, vibSpeed := 0, vibPos := 4 }))
      (fun t => t.dv 0 == 6 && (t.voice 0).vibPos == 8 && (t.voice 0).vibSign == false) = true := by decide
theorem test_tonePortaVslide :
    nextHolds (exec (.tonePortaVslide head 0 2) (laterTick.setVoice 0 { voice with portaTarget := 340, portaSpeed := 0x20 }))
      (fun t => (t.voice 0).period == 396 && (t.voice 0).volume == 28) = true := by decide
/-- R301: with no pitch neither writes anything. -/
theorem test_tonePorta_no_pitch :
    nextHolds (exec (.tonePorta head 0x20) (laterTick.setVoice 0 { voice with period := 0, portaTarget := 340 }))
      (fun t => (t.voice 0).portaSpeed == 0 && (t.voice 0).period == 0) = true := by decide
theorem test_tonePortaVslide_no_pitch :
    nextHolds (exec (.tonePortaVslide head 0 2) (laterTick.setVoice 0 { voice with period := 0, portaTarget := 340 }))
      (fun t => (t.voice 0).volume == 30 && (t.voice 0).period == 0) = true := by decide
/-- Table 1 of VIB_TABLE, index 28: (31*8)>>7 = 1; 28 + 4 wraps and flips the sign. -/
theorem test_vibratoVslide :
    nextHolds (exec (.vibratoVslide head 5 2) (laterTick.setVoice 0 { voice with vibPos := 28 }))
      (fun t => t.dv 0 == 1 && (t.voice 0).vibPos == 0 && (t.voice 0).vibSign == true && (t.voice 0).volume == 35) = true := by
  decide
/-- V-RL7. -/
theorem test_sampleOffset :
    nextHolds (exec (.sampleOffset ⟨0, 25, 1⟩ 4) rowTick)
      (fun t => (t.mixer 0).curOff == 1024 && (t.mixer 0).curLen == 976 && (t.mixer 0).loopOff == 1000 &&
        (t.mixer 0).loopLen == 1000) = true := by decide
/-- V-RL8 on instrument 2, whose loop of one word is not valid (V-RL9). -/
theorem test_sampleOffset_past_end :
    nextHolds (exec (.sampleOffset ⟨0, 25, 2⟩ 1) rowTick)
      (fun t => (t.mixer 0).curOff == 200 && (t.mixer 0).curLen == 0 && (t.mixer 0).loopValid == false) = true := by decide
/-- V-VOL: up has priority. -/
theorem test_volumeSlide :
    nextHolds (exec (.volumeSlide head 3 5) laterTick) (fun t => (t.voice 0).volume == 33) = true := by decide
theorem test_volumeSlide_row_tick :
    nextHolds (exec (.volumeSlide head 3 5) rowTick) (fun t => (t.voice 0).volume == 30) = true := by decide
theorem test_positionJump :
    nextHolds (exec (.positionJump head 2) rowTick) (fun t => t.seq.jmp && t.seq.jmpPos == 2) = true := by decide
theorem test_positionJump_later : nextHolds (exec (.positionJump head 2) laterTick) (fun t => t.seq.jmp == false) = true := by
  decide
/-- V-SV2. -/
theorem test_setVolume : nextHolds (exec (.setVolume head 0xFF) laterTick) (fun t => (t.voice 0).volume == 64) = true := by
  decide
/-- V-RL1 with the effect of V-SV3. -/
theorem test_setVolume_note :
    nextHolds (exec (.setVolume ⟨0, 25, 1⟩ 0) rowTick)
      (fun t => (t.voice 0).volume == 0 && (t.voice 0).period == 428 && (t.synth 0).svol == 127 &&
        (t.synth 0).env == .done && (t.mixer 0).curLen == 2000) = true := by decide
theorem test_patternBreak :
    nextHolds (exec (.patternBreak head 0x10) rowTick) (fun t => t.seq.brk && t.seq.brkRow == 10) = true := by decide
/-- V-DEC6. -/
theorem test_extra :
    nextHolds (exec (.extra head 1 0) rowTick) (fun t => t.cr.status == 2#32 && decide (t.seq = rowTick.seq)) = true := by
  decide
/-- V-SPD4, V-SPD7. -/
theorem test_setSpeed_tempo :
    nextHolds (exec (.setSpeed head 33) laterTick) (fun t => t.seq.tempo == 33 && t.seq.spt == 3692 && t.seq.speed == 6) = true := by
  decide
theorem test_setSpeed_ignored :
    nextHolds (exec (.setSpeed head 201) laterTick) (fun t => decide (t.seq = laterTick.seq)) = true := by decide
/-- V-NEWVOL. -/
theorem test_newVolume : nextHolds (exec (.newVolume head 0xFF) rowTick) (fun t => (t.synth 0).svol == 127) = true := by decide
theorem test_newVolume_later : nextHolds (exec (.newVolume head 0xFF) laterTick) (fun t => (t.synth 0).svol == 0) = true := by
  decide
theorem test_waveSpeed : nextHolds (exec (.waveSpeed head 3) laterTick) (fun t => (t.synth 0).wspeed == 3) = true := by decide
/-- V-AS. -/
theorem test_arpSpeed : nextHolds (exec (.arpSpeed head 0) laterTick) (fun t => (t.voice 0).arpSpeed == 1) = true := by decide
/-- V-FS1, V-FS2. -/
theorem test_fineSlideUp :
    nextHolds (exec (.fineSlideUp head 4) rowTick) (fun t => (t.voice 0).period == 424) = true := by decide
theorem test_fineSlideDown :
    nextHolds (exec (.fineSlideDown head 4) rowTick) (fun t => (t.voice 0).period == 432) = true := by decide
/-- V-TV. -/
theorem test_trackVolume :
    nextHolds (exec (.trackVolume head 0x20) laterTick) (fun t => (t.voice 0).trackVol == 32) = true := by decide
/-- V-WM2, V-WM1. -/
theorem test_waveMode : nextHolds (exec (.waveMode head 6) laterTick) (fun t => (t.synth 0).wmode == .pingpong) = true := by
  decide
theorem test_waveMode_three : nextHolds (exec (.waveMode head 3) laterTick) (fun t => (t.synth 0).wmode == .normal) = true := by
  decide
/-- V-EXT. -/
theorem test_extEvent :
    nextHolds (exec (.extEvent head 5) rowTick)
      (fun t => decide (t = rowTick.setVoice 0 { voice with fx := 0x17, arg := 5 })) = true := by decide +kernel
/-- Inert but for the latch (44_extra_effects.md R402). -/
theorem test_filter :
    nextHolds (exec (.filter head 1) rowTick)
      (fun t => decide (t = rowTick.setVoice 0 { voice with fx := 0x0E, arg := 0x01 })) = true := by decide +kernel
/-- V-VIBW. -/
theorem test_vibWave : nextHolds (exec (.vibWave head 2) laterTick) (fun t => (t.voice 0).vibAmp == 0x28) = true := by decide
/-- V-LOOP: E60 stores the row; E62 starts the counter at 2 and loops; 1 becomes 0xF0. -/
theorem test_patternLoop_start : nextHolds (exec (.patternLoop head 0) rowTick) (fun t => t.seq.loopRow == 7) = true := by decide
theorem test_patternLoop :
    nextHolds (exec (.patternLoop head 2) rowTick) (fun t => t.seq.loopCnt == 2 && t.seq.loopFlag) = true ∧
    nextHolds (exec (.patternLoop head 2) (rowTick.setSeq { rowTick.seq with loopCnt := 1 }))
      (fun t => t.seq.loopCnt == 0xF0 && t.seq.loopFlag == false) = true := by decide
/-- V-DELAY. -/
theorem test_patternDelay : nextHolds (exec (.patternDelay head 2) rowTick) (fun t => t.seq.delay == 1) = true := by decide
theorem test_patternDelay_zero :
    nextHolds (exec (.patternDelay head 0) rowTick) (fun t => t.seq.delay.toInt == -1) = true := by decide
/-- V-ARP1, V-ARP2 at the row load. -/
theorem test_arp :
    nextHolds (exec (.arp ⟨0, 25, 1⟩ 4 7) rowTick)
      (fun t => (t.voice 0).arpOn && (t.voice 0).arpList.toList.take 4 == [0, 4, 7, 0xFF]) = true := by decide
theorem test_arp_table :
    nextHolds (exec (.arp ⟨3, 25, 1⟩ 0 0) rowTick)
      (fun t => (t.voice 0).arpOn && (t.voice 0).arpList.toList.take 4 == [0, 7, 12, 0xFF]) = true := by decide
/-- V-RL3, V-RL4: a note with no instrument is silent; an instrument past NUM_INSTR sets OOB_READ. -/
theorem test_note_without_instrument :
    nextHolds (exec (.setSpeed ⟨0, 25, 0⟩ 0) (rowTick.setVoice 0 Voice.reset))
      (fun t => (t.voice 0).period == 428 && (t.mixer 0).active == false && t.cr.status == 0) = true := by decide
/-- 42_tick_gated_effects.md R304: the volume an instrument loads is clamped; 64 is loaded as it is. -/
theorem test_instrument_volume_clamped :
    ((resolveInstrument 0 1 { machine with song := { song with instruments := [{ sample with volume := 127 }] } }).voice 0).volume
      = 64 ∧ ((resolveInstrument 0 3 machine).voice 0).volume = 64 ∧
    ((resolveInstrument 0 1 machine).voice 0).volume = 50 := by decide
theorem test_instrument_out_of_range :
    nextHolds (exec (.setSpeed ⟨0, 0, 5⟩ 0) rowTick) (fun t => t.cr.status == 4 && (t.voice 0).inst == 1) = true := by decide

/-! ## The step, the engines, the host -/

/-- 95_test_vectors.md P1: the break on position 0 row 0 leads to position 1 row 10. -/
theorem test_step_break :
    nextHolds (step { machine with song := song.setCell 0 0 0 0x00000D10 })
      (fun t => t.seq.pos == 1 && t.seq.row == 10 && t.seq.curPos == 0 && t.seq.acc == 959 && t.seq.first) = true := by
  decide +kernel
/-- V-ENV1: 40, 80, 120, 127 and then SUB. -/
theorem test_envelope :
    envelope { Synth.reset with svol := 120, env := .add, add := 40, sub := 10, endLevel := 80 } =
      { Synth.reset with svol := 127, env := .sub, add := 40, sub := 10, endLevel := 80 } := by decide
/-- V-GAIN, V-INC, V-PAN. -/
theorem test_gain :
    gainOf cfg .aon8 { voice with volume := 64 } { Synth.reset with svol := 127 } = 127 / 128 ∧
    gainOf cfg .aon4 { voice with volume := 64 } { Synth.reset with svol := 127 } = 63 / 128 := by decide +kernel
theorem test_increment : incOf cfg 48000 428 = 3546895 / 20544000 ∧ incOf cfg 44100 428 = 3546895 / 18874800 := by
  decide +kernel
theorem test_pan : panGains .aon4 128 0 = (3 / 4, 1 / 4) ∧ panGains .aon8 128 2 = (1 / 4, 3 / 4) := by decide +kernel
/-- V-H1 to V-H4. -/
theorem test_writes :
    (writeRegister 0x0C 7999 machine).cr.sampleRate = 48000 ∧ (writeRegister 0x0C 44100 machine).seq.spt = 882 ∧
    (writeRegister 0x0C 192001 machine).cr.sampleRate = 48000 ∧ (writeRegister 0x10 300 machine).cr.stereoMix = 256 := by
  decide +kernel

/-! ## Witnesses: concrete states and operands that meet the hypotheses of each statement -/

theorem witness_DecodeOfEncodeIsTheInstruction :
    EffectCodeMap.default.wf = true ∧ (Instr.extra ⟨9, 25, 1⟩ 1 2).wf EffectCodeMap.default = true := by decide

theorem witness_EncodeOfDecodeClearsOnlyThePad :
    decode EffectCodeMap.default 0x9941CE12#32 = .instr (.extra ⟨9, 25, 1⟩ 1 2) := by decide

/-- No pitch, no target, and both. -/
theorem witness_PortamentoStepNeverPassesItsTarget :
    { voice with period := 0 }.period = 0 ∧ voice.portaTarget = 0 ∧
    { voice with portaTarget := 340 }.period ≠ 0 ∧ { voice with portaTarget := 340 }.portaTarget ≠ 0 := by decide

theorem witness_ExtraRunsItsSubEffectOrNothing : rowTick.cfg.codes.wf = true := by decide

theorem witness_InertAndRowLoadEffectsDispatchNothing : laterTick.seq.first = false := by decide

/-- The first instrument past the song's, and voices with none and with one of the song. -/
theorem witness_RowLoadMarksReservedCodes :
    rowTick.song.numInstr < (4#6).toNat ∧ (rowTick.voice 1).inst.toNat ≤ rowTick.song.numInstr ∧
    (rowTick.voice 0).inst = 1 ∧ (3#6).toNat ≤ rowTick.song.numInstr := by decide

def setVolumeCell : CellFields := ⟨0, 0, 1, 0x0C, 0x40⟩

/-- Another effect, the empty cell, and an arpeggio. -/
theorem witness_CellWithoutNoteLeavesTheSoundAlone :
    setVolumeCell.note = 0 ∧ cellOffsets rowTick setVolumeCell = [] ∧
    (fieldsOf 0#32).note = 0 ∧ cellOffsets rowTick (fieldsOf 0#32) = [] ∧
    (fieldsOf 0x00000047#32).note = 0 ∧ cellOffsets rowTick (fieldsOf 0x00000047#32) = [0, 4, 7] := by decide

def noteCell (inst : BitVec 6) (fx : Code) : CellFields := ⟨0, 25, inst, fx, 0x20⟩

/-- A plain note, a tone portamento to another instrument, and an arpeggio cell. -/
theorem witness_NoteTriggersASampleInstrument :
    (noteCell 1 0x0C).note ≠ 0 ∧ isTonePorta rowTick.cfg.codes (noteCell 1 0x0C).fx = false ∧
    ((noteCell 2 0x03).inst ≠ 0 ∧ (noteCell 2 0x03).inst ≠ (rowTick.voice 0).inst) ∧ (rowTick.voice 1).inst = 0 ∧
    rowTick.song.instrumentAt (resolvedNumber rowTick.song 1 (rowTick.voice 0).inst).toNat = some sample ∧
    sample.body = .sample sampleBody ∧
    rowTick.song.instrumentAt (resolvedNumber rowTick.song 2 (rowTick.voice 0).inst).toNat = some short ∧
    cellOffsets rowTick (noteCell 1 0x00) = [0, 2, 0] := by decide

theorem witness_NoteTriggersASynthInstrument :
    (noteCell 3 0x09).note ≠ 0 ∧ isTonePorta rowTick.cfg.codes (noteCell 3 0x09).fx = false ∧
    ((noteCell 3 0x05).inst ≠ 0 ∧ (noteCell 3 0x05).inst ≠ (rowTick.voice 0).inst) ∧ (rowTick.voice 1).inst = 0 ∧
    rowTick.song.instrumentAt (resolvedNumber rowTick.song 3 (rowTick.voice 0).inst).toNat = some synthInstrument ∧
    synthInstrument.body = .synth synthBody := by decide

/-- A cell that names no instrument and one that names an instrument past NUM_INSTR, on a voice that has none; assigned codes
with and without a sub-code. -/
theorem witness_NoteWithoutInstrumentIsSilent :
    (noteCell 0 0x0C).note ≠ 0 ∧ resolvedNumber rowTick.song (noteCell 0 0x0C).inst (rowTick.voice 1).inst = 0 ∧
    (noteCell 4 0x0C).note ≠ 0 ∧ resolvedNumber rowTick.song (noteCell 4 0x0C).inst (rowTick.voice 1).inst = 0 ∧
    (noteCell 0 0x0C).inst = 0 ∧ (noteCell 0 0x0C).fx ∈ rowTick.cfg.codes.codes ∧
    (noteCell 0 0x0C).fx ≠ rowTick.cfg.codes.extra ∧ argX 0x60 ∈ rowTick.cfg.codes.subcodes := by decide

/-- The capture (inst 0 on a voice with instrument 1), another instrument, and a voice with none. -/
theorem witness_TonePortamentoNoteCapturesOrRetriggers :
    ((noteCell 0 0x03).note ≠ 0 ∧ isTonePorta rowTick.cfg.codes (noteCell 0 0x03).fx = true ∧
      (noteCell 0 0x03).fx ≠ rowTick.cfg.codes.arp) ∧
    ((noteCell 0 0x03).inst = 0 ∧ (rowTick.voice 0).inst ≠ 0) ∧
    ((noteCell 2 0x03).inst ≠ 0 ∧ (noteCell 2 0x03).inst ≠ (rowTick.voice 0).inst) ∧ (rowTick.voice 1).inst = 0 := by decide

theorem witness_SampleOffsetMovesTheRegionStart :
    rowTick.cfg.codes.wf = true ∧ rowTick.seq.first = true ∧ (⟨0, 25, 1⟩ : Head).note ≠ 0 ∧
    rowTick.song.instrumentAt (resolvedNumber rowTick.song 1 (rowTick.voice rowTick.ch).inst).toNat = some sample ∧
    sample.body = .sample sampleBody ∧ head.note = 0 := by decide

def arpVoice (arg : Byte) (arpidx : Nibble) : State := rowTick.setVoice 0 { voice with fx := 0, arg := arg, arpidx := arpidx }

/-- The operand form, the table form with a list and without one, the empty cell, another effect; and a whole cell with no
instrument, with the first and with the last. -/
theorem witness_ArpSetupPutsTheOffsetListInForce :
    (((arpVoice 0x47 0).voice 0).fx = (arpVoice 0x47 0).cfg.codes.arp ∧ ((arpVoice 0x47 0).voice 0).arg ≠ 0) ∧
    (((arpVoice 0 3).voice 0).arpidx ≠ 0 ∧ (song.arpNibbles 3).takeWhile (fun n => n != cfg.arpEnd) = [0, 7, 12]) ∧
    ({ song with arp := [(4, 0xF0)] }.arpNibbles 1).takeWhile (fun n => n != cfg.arpEnd) = [] ∧
    (rowTick.setVoice 0 { voice with fx := 0x0C }).cfg.codes.arp ≠ 0x0C ∧
    rowTick.cfg.codes.wf = true ∧ rowTick.seq.first = true ∧ head.note = 0 ∧ head.inst = 0 ∧
    1 ≤ (1#6).toNat ∧ (3#6).toNat ≤ rowTick.song.numInstr := by decide

/-- A list of one offset and a list of eight. -/
theorem witness_ArpeggioCyclesThroughItsOffsets :
    (let v := { voice with arpOn := true, arpList := arpListOf [12] }
     ([12] : List Nibble) ≠ [] ∧ v.arpOn = true ∧ v.period ≠ 0 ∧ v.arpSpeed = 1 ∧ v.arpList = arpListOf [12] ∧ v.arpPos = 0) ∧
    ([0, 1, 2, 3, 4, 5, 6, 7] : List Nibble).length ≤ 8 := by decide

/-- A bank for each clause: ADD with and without a step, SUB at the end level and above it, DONE; and both kinds of voice. -/
theorem witness_EnvelopeRampsAndStops :
    ({ Synth.reset with env := .add }.env = .add ∧ { Synth.reset with env := .add }.add = 0) ∧
    { Synth.reset with env := .add, add := 40 }.add ≠ 0 ∧
    { Synth.reset with env := .sub, svol := 80, endLevel := 80 }.svol.toNat ≤ 80 ∧
    80 < { Synth.reset with env := .sub, svol := 81, endLevel := 80 }.svol.toNat ∧
    (machine.synth 0).env = .done ∧ (machine.voice 0).isSynth = false ∧ { voice with isSynth := true }.isSynth = true := by
  decide

/-- A bank for each clause; the last steps to wave 255, the highest the register holds, in a window that ends past it. -/
theorem witness_WaveStepMovesTheCursorAndTheLoopRegion :
    (machine.synth 0).wspeed = 0 ∧
    (let y := { Synth.reset with wspeed := 2 }
     y.wspeed ≠ 0 ∧ y.wctr.toNat + 1 < y.wspeed.toNat) ∧
    (let y := { Synth.reset with wspeed := 1 }
     y.wspeed ≠ 0 ∧ y.wspeed.toNat ≤ y.wctr.toNat + 1 ∧ y.wlLen = 0) ∧
    (let y := { Synth.reset with wspeed := 1, widx := 254, wlStart := 253, wlLen := 9 }
     y.wspeed ≠ 0 ∧ y.wspeed.toNat ≤ y.wctr.toNat + 1 ∧ y.wlLen ≠ 0 ∧ (y.widx.toNat : Int) + 1 < 256 ∧
     (y.widx.toNat : Int) + 1 ≤ (y.wlStart.toNat : Int) + y.wlLen.toNat - 1) := by decide

/-- Not playing, playing inside its region, and at the first phase past it, with and without a valid loop. -/
theorem witness_MixChannelReadsTheByteUnderThePhase :
    (machine.mixer 1).active = false ∧ (machine.mixer 0).active = true ∧
    (machine.mixer 0).phase < ((machine.mixer 0).curLen.toNat : Rat) ∧
    (let m := { mixer 1 0 with phase := 4 }
     m.active = true ∧ (m.curLen.toNat : Rat) ≤ m.phase ∧ m.loopValid = true) ∧
    (let m := { mixer 1 0 with phase := 4, loopValid := false }
     m.active = true ∧ (m.curLen.toNat : Rat) ≤ m.phase ∧ m.loopValid = false) := by decide +kernel

theorem witness_RegionEndEntersTheLoopOrStops :
    (machine.mixer 1).loopValid = false ∧ (machine.mixer 0).loopValid = true ∧ 0 < (machine.mixer 0).loopLen.toNat := by decide

theorem legalPeriod_of_le {p : BitVec 16} (h : 103 ≤ p.toNat) : legalPeriod p := .inr h

theorem reset_chanInv (c : Channel) (h : c = 1 ∨ c = 2 ∨ c = 3) : ChanInv machine c := by
  rcases h with rfl | rfl | rfl <;>
    exact ⟨⟨by decide, .inl rfl, .inl rfl, .inl rfl, .inl rfl, by decide, by decide, by decide, by decide, by decide, by decide,
        nofun⟩,
      ⟨by decide +kernel, by decide +kernel, by decide +kernel, by decide +kernel, nofun⟩, nofun, by decide, by decide, rfl, by decide⟩

/-- A legal state that is not the reset state: channel 0 plays. -/
theorem witness_machine_legal : Inv machine where
  cfg := test_wf_config
  song := test_wf_song
  held := rfl
  rate := by decide
  stereo := by decide
  status := by decide
  seq := ⟨by decide, by decide, by decide, by decide, by decide, by decide, by decide, by decide⟩
  chans := by
    intro c hc
    have : c = 0 ∨ c = 1 ∨ c = 2 ∨ c = 3 := by revert c; decide
    rcases this with rfl | h
    · exact ⟨⟨by decide, legalPeriod_of_le (by decide), legalPeriod_of_le (by decide), .inl rfl, .inl rfl, by decide, by decide,
          by decide, by decide, by decide, by decide, nofun⟩,
        ⟨by decide +kernel, by decide +kernel, by decide +kernel, by decide +kernel, fun _ => by decide⟩, nofun,
        by decide, by decide, rfl, by decide⟩
    · exact reset_chanInv c h

/-- The machine at full volume, its gain the one of its registers (V-GAIN). -/
def loudMachine : State :=
  ((machine.setVoice 0 { voice with volume := 64 }).setSynth 0 { Synth.reset with svol := 127 }).setMixer 0
    { mixer 1 0 with gain := 63 / 128 }

theorem witness_gains_follow : GainsFollow loudMachine := by unfold GainsFollow; decide +kernel

/-- A step of the legal machine, and of one whose gains follow its registers, answers a next state. -/
theorem witness_EveryStepKeepsTheLegalState :
    nextHolds (step machine) (fun t => t.loaded) = true ∧ nextHolds (step loudMachine) (fun t => t.loaded) = true := by
  decide +kernel

theorem witness_MixFrameSumsTheChannelsAndFillsTheScopes : (machine.scope 0).wp < (machine.scope 0).ring.length := by decide

/-- A row tick with the counter armed to its least and its largest value. -/
theorem witness_ArmedDelayStallsTheRow :
    (let s := machine.setSeq { machine.seq with delay := 0, tick := 0 }
     0 ≤ s.seq.delay.toInt ∧ s.seq.first = false ∧ s.seq.tick = 0) ∧
    0 ≤ { machine.seq with delay := 14 }.delay.toInt := by decide

/-- The row of 95_test_vectors.md P1. -/
def jumpMachine : State := { machine with song := song.setCell 0 0 0 0x00000D10 }

/-- The row of P1 with a reserved code on channel 1. -/
theorem witness_StepRunsTheRowsDecodedCells :
    let s := { jumpMachine with song := jumpMachine.song.setCell 0 0 1 0x00000700 }
    let w : Channel → CellWord := fun c => if c = 0 then 0x00000D10 else if c = 1 then 0x00000700 else 0
    s.loaded = true ∧ s.seq.acc.toInt ≤ 0 ∧ s.seq.speed.toNat ≤ s.seq.tick.toNat + 1 ∧ s.seq.delay.toInt < 0 ∧
    s.song.posAt s.seq.pos.toNat = some 0 ∧
    (∀ c ∈ s.channels, s.song.cellAt 0 s.seq.row.toNat c.val = some (w c)) ∧
    decode s.cfg.codes (w 0) = .instr (.patternBreak ⟨0, 0, 0⟩ 0x10) ∧
    decode s.cfg.codes (w 1) = .reservedEffect ⟨0, 0, 0, 0x07, 0⟩ ∧
    decode s.cfg.codes (w 2) = .instr (.arp ⟨0, 0, 0⟩ 0 0) := by decide

/-- A tick inside a row, and a row tick that a delay counter of 0, and of 14, stalls. -/
theorem witness_StepRunsTheLatchedCells :
    (laterTick.loaded = true ∧ laterTick.seq.acc.toInt ≤ 0 ∧ laterTick.seq.tick.toNat + 1 < laterTick.seq.speed.toNat) ∧
    (let s := machine.setSeq { machine.seq with delay := 0 }
     s.loaded = true ∧ s.seq.acc.toInt ≤ 0 ∧ s.seq.speed.toNat ≤ s.seq.tick.toNat + 1 ∧ 0 ≤ s.seq.delay.toInt) ∧
    0 ≤ { machine.seq with delay := 14 }.delay.toInt := by decide

theorem witness_PlacedFetchWordIsFetchedNext : machine.song.pat.wf = true ∧ jumpMachine.song.pat.wf = true := by decide

/-- No frame, every frame up to the next tick, and the last frame before it. -/
theorem witness_FramesBetweenTicksCountDownAndMix :
    machine.loaded = true ∧ 0 < { machine.seq with acc := 1 }.acc.toInt ∧ ((0 : Nat) : Int) ≤ machine.seq.acc.toInt ∧
    ((959 : Nat) : Int) ≤ { machine.seq with acc := 959 }.acc.toInt := by decide

/-- A flow effect that writes the sequencer, and an EXTRA cell that does. -/
theorem witness_OnlyFlowEffectsWriteTheSequencer :
    nextHolds (exec (.positionJump head 2) rowTick) (fun t => decide (t.seq ≠ rowTick.seq)) = true ∧
    nextHolds (exec (.extra head 0xE 2) rowTick) (fun t => decide (t.seq ≠ rowTick.seq)) = true := by decide

theorem witness_EveryStepEmitsOneFrame : machine.loaded = true := rfl

/-- A song with its RESTART in range and one with RESTART = NUM_POSITIONS (95_test_vectors.md T3); songs that break a condition
of R630, each at its boundary. -/
theorem witness_CreateHoldsTheSongOrRejectsIt :
    (machine.cfg.wf = true ∧ song.clampRestart.wf = true ∧ { song with restart := 3 }.clampRestart.wf = true) ∧
    { song with numPositions := 0 }.clampRestart.wf = false ∧
    song.numPatterns ≤ ({ song with pos := [(1, 2)] }.pos.read 1).toNat ∧
    (∃ i ∈ song.instruments, { song with waves := [] }.numWaves ≤ i.wave.toNat) := by decide

/-- A song is held, and an operation that is no DECODE. -/
theorem witness_DecodeAloneProducesFrames : machine.loaded = true ∧ ∀ n, HostOp.start 0 ≠ .decode n := ⟨rfl, nofun⟩

/-- Both calls of a split DECODE answer. -/
theorem witness_DecodeMayBeSplit :
    (match hostOp (.decode 1) machine with
     | .next (t, _) => (match hostOp (.decode 2) t with
       | .next (u, _) => u.out.length == 3
       | _ => false)
     | _ => false) = true := by decide +kernel

/-- An operation before a CREATE. -/
theorem witness_NothingRunsWithoutASong :
    { machine with loaded := false }.loaded = false ∧ ∀ r, HostOp.metadata ≠ .create r :=
  ⟨rfl, nofun⟩

/-- An illegal rate on each side (`witness_gains_follow` has the gains), the least and the largest legal rate, and offsets that are and are not writable. A left and a right
channel of the song. -/
theorem witness_RegisterWritesTakeEffectAtOnce :
    (3 : Channel) ∈ machine.channels ∧ (2 : Channel) ∈ machine.channels ∧
    (7999#32).toNat < 8000 ∧ 192000 < (192001#32).toNat ∧ 8000 ≤ (8000#32).toNat ∧ (192000#32).toNat ≤ 192000 ∧
    (0x08 : Nat) ≠ 0x04 ∧ (0x08 : Nat) ≠ 0x0C ∧ (0x08 : Nat) ≠ 0x10 ∧ machine.loaded = true := by decide

/-- A song is held. -/
theorem witness_StartResetsThePlayback : machine.loaded = true := rfl

/-- The pattern at the playing position, a song held, and indices in range and not. -/
theorem witness_ReadShowsTheRegisterMap :
    machine.song.posAt machine.seq.curPos.toNat = some 0 ∧ machine.loaded = true ∧ (8 : Nat) ≤ 8 := by decide

end Sys2Proof.Tests
end

section
/-! PROOFS. The registers right after reset (O55). -/

namespace Sys2Proof.Machine

/-- The banks of State.reset: AON4's pan L, R, R, L, and both pan gains 0 on the channels it lacks (47_mixer.md R548). -/
theorem reset_chan (c : Channel) : State.reset.chan c =
    Chan.reset 1024 (if c = 0 ∨ c = 3 then 1 else 0) (if c = 1 ∨ c = 2 then 1 else 0) := by
  fin_cases c <;> rfl

/-- The tick length at the reset rate: 48000 frames a second at 50 ticks a second (10_state.md R32). -/
theorem reset_spt : State.reset.seq.spt = 960 := by decide

/-- Settles O55: each bank is its definition written out. -/
theorem resetRegistersHaveTheirValues : Obligations.ResetRegistersHaveTheirValues :=
  ⟨fun _ => rfl, fun _ _ _ => rfl, rfl, reset_spt, reset_chan, rfl, rfl⟩

end Sys2Proof.Machine
end

section
/-! PROOFS. The register map and the replies that only show the state (O60). -/

namespace Sys2Proof.Machine

/-! ## The channel part of the register map -/

/-- READ at an aligned offset of channel c's part of the map. -/
theorem readRegister_channel (c : Channel) (k : Nat) (hk : k < 16) (h4 : k % 4 = 0) (s : State) :
    readRegister (0x40 + k + 16 * c.val) s = if c.val < s.nch then readChannel (0x40 + k) (s.voice c) else 0 := by
  have hc : channelOf (0x40 + k + 16 * c.val) = c.val := by unfold channelOf; omega
  have hr : readChannel (0x40 + k + 16 * c.val) (s.voice c) = readChannel (0x40 + k) (s.voice c) := by
    unfold readChannel
    rw [show (0x40 + k + 16 * c.val - 0x40) % 16 = (0x40 + k - 0x40) % 16 by omega]
  have hmap : 0x40 ≤ 0x40 + k + 16 * c.val ∧ (0x40 + k + 16 * c.val) % 4 = 0 := by omega
  unfold readRegister
  iterate 11 rw [if_neg (by omega)]
  rw [if_pos hmap, dif_pos (by omega)]
  simp only [hc, Fin.eta, hr]

/-- The number a channel register shows: the voice's field, or 0 on a channel the song does not have. -/
theorem readRegister_channel_toNat (c : Channel) (k n : Nat) (hk : k < 16) (h4 : k % 4 = 0) (s : State)
    (h : (readChannel (0x40 + k) (s.voice c)).toNat = n) :
    (readRegister (0x40 + k + 16 * c.val) s).toNat = if c.val < s.nch then n else 0 := by
  rw [readRegister_channel c k hk h4, apply_ite BitVec.toNat, h]
  rfl

theorem readChannel_inst (v : Voice) : (readChannel 0x40 v).toNat = v.inst.toNat :=
  BitVec.toNat_setWidth_of_le (b := v.inst) (by decide)

theorem readChannel_volume (v : Voice) : (readChannel 0x44 v).toNat = v.volume.toNat :=
  BitVec.toNat_setWidth_of_le (b := v.volume) (by decide)

theorem readChannel_outPeriod (v : Voice) : (readChannel 0x48 v).toNat = v.outPeriod.toNat :=
  BitVec.toNat_setWidth_of_le (b := v.outPeriod) (by decide)

/-- The latched effect: the code above the argument byte (10_state.md R80). -/
theorem readChannel_effect (v : Voice) : (readChannel 0x4C v).toNat = v.fx.toNat * 256 + v.arg.toNat := by
  have h : (readChannel 0x4C v).toNat = (v.fx ++ v.arg).toNat :=
    BitVec.toNat_setWidth_of_le (b := v.fx ++ v.arg) (by decide)
  rw [h, BitVec.toNat_append, ← Nat.shiftLeft_add_eq_or_of_lt v.arg.isLt, Nat.shiftLeft_eq]

/-! ## The other registers -/

theorem readRegister_nch (s : State) : (readRegister 0x00 s).toNat = s.nch := by
  change (BitVec.ofNat 32 s.song.variant.nch).toNat = s.song.variant.nch
  cases s.song.variant <;> rfl

theorem readRegister_scopeEn (s : State) : (readRegister 0x04 s).toNat = if s.cr.scopeEn then 1 else 0 := by
  change ((BitVec.ofBool s.cr.scopeEn).setWidth 32).toNat = _
  cases s.cr.scopeEn <;> rfl

theorem readRegister_stereoMix (s : State) : (readRegister 0x10 s).toNat = s.cr.stereoMix.toNat :=
  BitVec.toNat_setWidth_of_le (b := s.cr.stereoMix) (by decide)

theorem readRegister_curPos (s : State) : (readRegister 0x18 s).toNat = s.seq.curPos.toNat :=
  BitVec.toNat_setWidth_of_le (b := s.seq.curPos) (by decide)

theorem readRegister_curRow (s : State) : (readRegister 0x20 s).toNat = s.seq.curRow.toNat :=
  BitVec.toNat_setWidth_of_le (b := s.seq.curRow) (by decide)

theorem readRegister_speed (s : State) : (readRegister 0x24 s).toNat = s.seq.speed.toNat :=
  BitVec.toNat_setWidth_of_le (b := s.seq.speed) (by decide)

theorem readRegister_tempo (s : State) : (readRegister 0x28 s).toNat = s.seq.tempo.toNat :=
  BitVec.toNat_setWidth_of_le (b := s.seq.tempo) (by decide)

theorem readRegister_pattern (s : State) (p : Byte) (h : s.song.posAt s.seq.curPos.toNat = some p) :
    (readRegister 0x1C s).toNat = p.toNat := by
  change ((posList s s.seq.curPos).1.setWidth 32).toNat = _
  rw [posList, h]
  exact BitVec.toNat_setWidth_of_le (by decide)

/-! ## The host operations that only answer -/

theorem hostOp_read {s : State} (h : s.loaded = true) (offset : Nat) :
    hostOp (.read offset) s = .next (s, .value (readRegister offset s)) := if_pos h

theorem hostOp_cell {s : State} (h : s.loaded = true) (pat row ch : Nat) :
    hostOp (.cell pat row ch) s = .next (s, readCell pat row ch s) := if_pos h

theorem hostOp_scope {s : State} (h : s.loaded = true) (ch : Nat) :
    hostOp (.scope ch) s = .next (s, readScope ch s) := if_pos h

theorem hostOp_metadata {s : State} (h : s.loaded = true) :
    hostOp .metadata s = .next (s, .counts s.song.numPatterns s.song.numInstr) := if_pos h

theorem readCell_eq (pat row ch : Nat) (s : State) :
    readCell pat row ch s = if pat < s.song.numPatterns ∧ row < 64 ∧ ch < s.nch
      then .value (readWord s.song.pat (s.song.cellAddr pat row ch)) else .notFound := by
  unfold readCell Song.cellAt State.nch
  by_cases h : pat < s.song.numPatterns ∧ row < rowsPerPattern ∧ ch < s.song.variant.nch
  · rw [if_pos h, if_pos h]
  · rw [if_neg h, if_neg h]

theorem readScope_channel (c : Channel) (s : State) :
    readScope c.val s = if c.val < s.nch then .ring (s.scope c).ring (s.scope c).wp else .notFound :=
  dif_pos c.isLt

theorem readScope_past (ch : Nat) (h : 8 ≤ ch) (s : State) : readScope ch s = .notFound :=
  dif_neg (Nat.not_lt.2 h)

/-- Settles O60, register by register and operation by operation. -/
theorem readShowsTheRegisterMap : Obligations.ReadShowsTheRegisterMap := by
  intro s
  refine ⟨readRegister_nch s, readRegister_scopeEn s, rfl, rfl, readRegister_stereoMix s, rfl, readRegister_curPos s,
    readRegister_curRow s, readRegister_speed s, readRegister_tempo s, readRegister_pattern s, ?channels, ?host⟩
  case channels =>
    intro c
    exact ⟨readRegister_channel_toNat c 0 _ (by decide) rfl s (readChannel_inst _),
      readRegister_channel_toNat c 4 _ (by decide) rfl s (readChannel_volume _),
      readRegister_channel_toNat c 8 _ (by decide) rfl s (readChannel_outPeriod _),
      readRegister_channel_toNat c 12 _ (by decide) rfl s (readChannel_effect _)⟩
  case host =>
    intro h
    refine ⟨hostOp_read h, fun pat row ch => ?_, fun c => ?_, fun ch h8 => ?_, hostOp_metadata h⟩
    · rw [hostOp_cell h, readCell_eq]; rfl
    · rw [hostOp_scope h, readScope_channel]
    · rw [hostOp_scope h, readScope_past ch h8]

end Sys2Proof.Machine
end

section
/-! PROOFS. Every step keeps the legal state (O51): each operation of a frame, in the order a frame runs them, keeps `Inv` and
leaves the frame countdown alone; the frame itself then reloads it and counts it down. -/

namespace Sys2Proof.Machine

/-! ## Operations that keep a legal state -/

/-- f takes legal states to legal states and leaves the frame countdown S.acc alone, as every operation inside a tick does. -/
def KeepsLegal (f : State → State) : Prop :=
  ∀ s, Inv s → Inv (f s) ∧ (f s).seq.acc = s.seq.acc

theorem KeepsLegal.id : KeepsLegal (fun s => s) := fun _ h => ⟨h, rfl⟩

theorem KeepsLegal.comp {f g : State → State} (hg : KeepsLegal g) (hf : KeepsLegal f) : KeepsLegal (fun s => g (f s)) := by
  intro s h
  obtain ⟨h1, e1⟩ := hf s h
  obtain ⟨h2, e2⟩ := hg (f s) h1
  exact ⟨h2, e2.trans e1⟩

/-- An operation on one channel keeps a legal state if it keeps that channel legal and STATUS inside its four bits. -/
theorem keepsLegal_of_onlyChannel {c : Channel} {f : State → State} (ho : ∀ s, OnlyChannel c s (f s))
    (hb : ∀ s, s.cr.status.toNat < 16 → (f s).cr.status.toNat < 16)
    (hc : ∀ s, Inv s → ChanInv s c → ChanInv (f s) c) : KeepsLegal f :=
  fun s h => ⟨h.onlyChannel (ho s) (hb s h.status) (hc s h), congrArg Seq.acc (ho s).seq⟩

/-- The same for an operation that does not write CR. -/
theorem keepsLegal_of_channel {c : Channel} {f : State → State} (ho : ∀ s, OnlyChannel c s (f s))
    (hcr : ∀ s, (f s).cr = s.cr) (hc : ∀ s, ChanInv s c → ChanInv (f s) c) : KeepsLegal f :=
  keepsLegal_of_onlyChannel ho (fun s h => by rw [hcr s]; exact h) (fun s _ => hc s)

/-- An operation on S alone keeps a legal state if it keeps S legal. -/
theorem keepsLegal_of_seq {f : State → State} (g : State → Seq) (e : ∀ s, f s = s.setSeq (g s))
    (hq : ∀ s, Inv s → SeqInv s.song s.cr.sampleRate (g s)) (ha : ∀ s, (g s).acc = s.seq.acc) : KeepsLegal f := by
  intro s h
  rw [e s]
  exact ⟨h.setSeq _ (hq s h), ha s⟩

theorem flagIf_keepsLegal (b : Bool) (e : Event) : KeepsLegal (flagIf b e) :=
  fun s h => ⟨h.flagIf b e, congrArg Seq.acc (flagIf_seq b e s)⟩

theorem passA_keepsLegal {f : State → State} (h : KeepsLegal f) : KeepsLegal (passA f) := by
  intro s hs
  unfold passA
  split
  · exact ⟨hs, rfl⟩
  · exact h s hs

theorem onFirst_keepsLegal {f : State → State} (h : KeepsLegal f) : KeepsLegal (onFirst f) := by
  intro s hs
  unfold onFirst
  split
  · exact h s hs
  · exact ⟨hs, rfl⟩

/-- A phase over all channels keeps a legal state if each channel's part does. -/
theorem forChannels_keepsLegal {f : Channel → State → State} (hf : ∀ c, KeepsLegal (f c)) : KeepsLegal (forChannels f) := by
  intro s h
  refine forChannels_keeps (fun t => Inv t ∧ t.seq.acc = s.seq.acc) f ?_ s ⟨h, rfl⟩
  rintro c t ⟨ht, et⟩
  obtain ⟨hu, eu⟩ := hf c t ht
  exact ⟨hu, eu.trans et⟩

/-! ## What the legal parameters, song and tempo say -/

/-- The bounds a well-formed configuration puts on its lengths (the code map and the period table aside). -/
theorem config_wf_bounds {cfg : Config} (h : cfg.wf = true) :
    1 ≤ cfg.scopeLen ∧ 1 ≤ cfg.palClock ∧ 1 ≤ cfg.loopValidMinWords := by
  simp only [Config.wf, Bool.and_eq_true, decide_eq_true_eq] at h
  obtain ⟨⟨⟨⟨-, hscope⟩, hclock⟩, hloop⟩, -⟩ := h
  exact ⟨hscope, hclock, hloop⟩

theorem Inv.scopeLen {s : State} (h : Inv s) : 1 ≤ s.cfg.scopeLen := (config_wf_bounds h.cfg).1

theorem Inv.loopValidMinWords {s : State} (h : Inv s) : 1 ≤ s.cfg.loopValidMinWords := (config_wf_bounds h.cfg).2.2

theorem Song.restart_lt {g : Song} (h : g.wf = true) : g.restart.toNat < g.numPositions := by
  simp only [Song.wf, Bool.and_eq_true, decide_eq_true_eq] at h
  tauto

/-- At a legal sample rate and tempo a tick lasts at least one frame, and fewer frames than the countdown can hold. -/
theorem samplesPerTick_range (rate : BitVec 32) (tempo : BitVec 8) (hr : 8000 ≤ rate.toNat ∧ rate.toNat ≤ 192000)
    (ht : 33 ≤ tempo.toNat ∧ tempo.toNat ≤ 200) :
    1 ≤ (samplesPerTick rate tempo).toNat ∧ (samplesPerTick rate tempo).toNat < 192000 := by
  have hlo : 13 ≤ ticksPerSecond tempo := by unfold ticksPerSecond; omega
  have hhi : ticksPerSecond tempo ≤ 80 := by unfold ticksPerSecond; omega
  have hpos : 0 < rate.toNat / ticksPerSecond tempo := Nat.div_pos (by omega) (by omega)
  have hlt : rate.toNat / ticksPerSecond tempo < rate.toNat := Nat.div_lt_self (by omega) (by omega)
  rw [samplesPerTick, BitVec.toNat_ofNat, Nat.mod_eq_of_lt (by omega)]
  omega

/-! ## Row load -/

theorem rowLoad_keepsLegal (c : Channel) (f : CellFields) : KeepsLegal (rowLoad c f) :=
  keepsLegal_of_onlyChannel (rowLoad_onlyChannel c f) (rowLoad_status_lt c f)
    (fun s h => rowLoad_chanInv c f s h.song h.loopValidMinWords)

theorem loadCell_keepsLegal (f : CellFields) : KeepsLegal (loadCell f) := by
  intro s h
  unfold loadCell
  split
  · exact rowLoad_keepsLegal s.ch f s h
  · exact ⟨h, rfl⟩

theorem afterLoad_keepsLegal (i : Instr) : KeepsLegal (afterLoad i) :=
  fun s h => loadCell_keepsLegal (i.fields s.cfg.codes) s h

/-! ## Handlers that write a channel's banks -/

/-- A write of a voice register keeps a legal state if the voice stays legal and of its kind. -/
theorem setVoice_keepsLegal (c : Channel) (g : State → Voice) (hv : ∀ s, VoiceInv s.song (s.voice c) → VoiceInv s.song (g s))
    (he : ∀ s, (g s).isSynth = (s.voice c).isSynth) : KeepsLegal (fun s => s.setVoice c (g s)) :=
  keepsLegal_of_channel (fun s => setVoice_onlyChannel c s _) (fun _ => rfl)
    (fun s h => h.setVoice _ (hv s h.voice) (he s))

/-- A write of a synth register other than the waveform and its length keeps a legal state. -/
theorem setSynth_keepsLegal (c : Channel) (g : State → Synth) (hl : ∀ s, (g s).wlen = (s.synth c).wlen)
    (hw : ∀ s, (g s).wave = (s.synth c).wave) : KeepsLegal (fun s => s.setSynth c (g s)) :=
  keepsLegal_of_channel (fun s => setSynth_onlyChannel c s _) (fun _ => rfl) (fun s h => h.setSynth _ (hl s) (hw s))

theorem slidePeriod_keepsLegal (c : Channel) (d : Int) : KeepsLegal (slidePeriod c d) :=
  keepsLegal_of_channel (slidePeriod_onlyChannel c d) (fun s => by rw [slidePeriod_eq]; rfl) (slidePeriod_chanInv c d)

theorem volSlide_keepsLegal (c : Channel) (x y : Nibble) : KeepsLegal (volSlide c x y) :=
  keepsLegal_of_channel (volSlide_onlyChannel c x y) (fun s => by rw [volSlide_eq]; rfl) (volSlide_chanInv c x y)

theorem vibratoStep_keepsLegal (c : Channel) : KeepsLegal (vibratoStep c) :=
  keepsLegal_of_channel (vibratoStep_onlyChannel c) (fun _ => rfl) (vibratoStep_chanInv c)

theorem vibrato_keepsLegal (c : Channel) (x y : Nibble) : KeepsLegal (vibrato c x y) :=
  keepsLegal_of_channel (vibrato_onlyChannel c x y) (fun _ => rfl) (vibrato_chanInv c x y)

theorem withPitch_cr {c : Channel} {f : State → State} (h : ∀ s, (f s).cr = s.cr) (s : State) :
    (withPitch c f s).cr = s.cr := by
  unfold withPitch
  split
  · rfl
  · exact h s

theorem tonePorta_keepsLegal (c : Channel) (arg : Byte) : KeepsLegal (tonePorta c arg) :=
  keepsLegal_of_channel (tonePorta_onlyChannel c arg) (withPitch_cr (fun _ => by split <;> rfl)) (tonePorta_chanInv c arg)

theorem tonePortaVslide_keepsLegal (c : Channel) (x y : Nibble) : KeepsLegal (tonePortaVslide c x y) :=
  keepsLegal_of_channel (tonePortaVslide_onlyChannel c x y) (withPitch_cr (fun _ => by rw [volSlide_eq]; rfl))
    (tonePortaVslide_chanInv c x y)

theorem setVolume_keepsLegal (c : Channel) (arg : Byte) : KeepsLegal (setVolume c arg) :=
  setVoice_keepsLegal c _ (fun _ h => { h with volume := clampVolume_le _ }) (fun _ => rfl)

theorem trackVolume_keepsLegal (c : Channel) (arg : Byte) : KeepsLegal (trackVolume c arg) :=
  setVoice_keepsLegal c _ (fun _ h => { h with trackVol := clampVolume_le _ }) (fun _ => rfl)

theorem arpSpeed_keepsLegal (c : Channel) (arg : Byte) : KeepsLegal (arpSpeed c arg) := by
  refine setVoice_keepsLegal c _ (fun _ h => { h with arpSpeed := ?_ }) (fun _ => rfl)
  simp only []
  split
  · decide
  · bv_omega

theorem vibWave_keepsLegal (c : Channel) (y : Nibble) : KeepsLegal (vibWave c y) :=
  setVoice_keepsLegal c _ (fun _ h => { h with vibAmp := withVibSelect_high _ _ h.vibAmp }) (fun _ => rfl)

theorem newVolume_keepsLegal (c : Channel) (arg : Byte) : KeepsLegal (newVolume c arg) :=
  setSynth_keepsLegal c _ (fun _ => rfl) (fun _ => rfl)

theorem waveSpeed_keepsLegal (c : Channel) (arg : Byte) : KeepsLegal (waveSpeed c arg) :=
  setSynth_keepsLegal c _ (fun _ => rfl) (fun _ => rfl)

theorem waveMode_keepsLegal (c : Channel) (arg : Byte) : KeepsLegal (waveMode c arg) :=
  setSynth_keepsLegal c _ (fun _ => rfl) (fun _ => rfl)

/-! ## Handlers that write S -/

theorem positionJump_keepsLegal (arg : Byte) : KeepsLegal (positionJump arg) :=
  keepsLegal_of_seq _ (fun _ => rfl) (fun _ h => { h.seq with }) (fun _ => rfl)

theorem patternBreak_keepsLegal (arg : Byte) : KeepsLegal (patternBreak arg) :=
  keepsLegal_of_seq _ (fun _ => rfl) (fun _ h => { h.seq with }) (fun _ => rfl)

/-- SET_SPEED writes a speed of 1..32, or a tempo of 33..200 with the tick length of that tempo. -/
theorem setSpeed_keepsLegal (arg : Byte) : KeepsLegal (setSpeed arg) := by
  intro s h
  unfold setSpeed
  split
  · exact ⟨h, rfl⟩
  · rename_i h0
    have hpos : arg.toNat ≠ 0 := fun e => h0 (BitVec.eq_of_toNat_eq e)
    split
    · rename_i hspeed
      exact ⟨h.setSeq _ { h.seq with speed := ⟨Nat.one_le_iff_ne_zero.2 hpos, hspeed⟩ }, rfl⟩
    · split
      · have htempo : 33 ≤ arg.toNat ∧ arg.toNat ≤ 200 := by omega
        split
        · exact ⟨h.setSeq _ { h.seq with tempo := htempo, spt := rfl }, rfl⟩
        · exact ⟨h, rfl⟩
      · exact ⟨h, rfl⟩

theorem loopCounter_acc (y : Nibble) (q : Seq) : (loopCounter y q).acc = q.acc := by
  unfold loopCounter
  repeat' split
  all_goals rfl

/-- A loop counter starts at a nibble, counts down to 1, and then is exhausted. -/
theorem loopCounter_seqInv {g : Song} {rate : BitVec 32} {q : Seq} (y : Nibble) (h : SeqInv g rate q) :
    SeqInv g rate (loopCounter y q) := by
  unfold loopCounter
  split
  · exact { h with }
  · split
    · exact h
    · rename_i hex
      split
      · refine { h with loopCnt := .inl ?_ }
        have := y.isLt
        simp only [BitVec.toNat_setWidth]
        omega
      · rename_i h0
        split
        · exact { h with loopCnt := .inr rfl }
        · have := h.loopCnt.resolve_right hex
          exact { h with loopCnt := .inl (by simp only []; bv_omega) }

theorem patternLoop_keepsLegal (y : Nibble) : KeepsLegal (patternLoop y) :=
  keepsLegal_of_seq _ (fun _ => rfl) (fun _ h => loopCounter_seqInv y h.seq) (fun _ => loopCounter_acc y _)

theorem patternDelay_keepsLegal (y : Nibble) : KeepsLegal (patternDelay y) := by
  intro s h
  unfold patternDelay
  split
  · exact ⟨h, rfl⟩
  · have := y.isLt
    have e : (BitVec.ofInt 8 ((y.toNat : Int) - 1)).toInt = y.toNat - 1 :=
      BitVec.toInt_ofInt_eq_self (by decide) (by omega) (by omega)
    exact ⟨h.setSeq _ { h.seq with delay := by simp only [e]; omega }, rfl⟩

theorem extraEffect_keepsLegal (c : Channel) (x y : Nibble) : KeepsLegal (extraEffect c x y) := by
  intro s h
  unfold extraEffect
  split
  · exact ⟨h, rfl⟩
  · split
    · exact vibWave_keepsLegal c y s h
    · split
      · exact onFirst_keepsLegal (patternLoop_keepsLegal y) s h
      · split
        · exact onFirst_keepsLegal (patternDelay_keepsLegal y) s h
        · exact ⟨h, rfl⟩

/-! ## Cells -/

/-- Every instruction answers what a handler that keeps a legal state leaves of the state after the row load. -/
theorem exec_eq_keepsLegal (i : Instr) (s : State) : ∃ f, KeepsLegal f ∧ exec i s = .next (f (afterLoad i s)) := by
  cases i with
  | arp h x y => exact ⟨_, .id, exec_arp h x y s⟩
  | slideUp h arg => exact ⟨_, passA_keepsLegal (slidePeriod_keepsLegal _ _), exec_slideUp h arg s⟩
  | slideDown h arg => exact ⟨_, passA_keepsLegal (slidePeriod_keepsLegal _ _), exec_slideDown h arg s⟩
  | tonePorta h arg => exact ⟨_, passA_keepsLegal (tonePorta_keepsLegal _ _), exec_tonePorta h arg s⟩
  | vibrato h x y => exact ⟨_, passA_keepsLegal (vibrato_keepsLegal _ _ _), exec_vibrato h x y s⟩
  | tonePortaVslide h x y =>
    exact ⟨_, passA_keepsLegal (tonePortaVslide_keepsLegal _ _ _), exec_tonePortaVslide h x y s⟩
  | vibratoVslide h x y =>
    exact ⟨_, passA_keepsLegal ((volSlide_keepsLegal _ _ _).comp (vibratoStep_keepsLegal _)), exec_vibratoVslide h x y s⟩
  | sampleOffset h arg => exact ⟨_, .id, exec_sampleOffset h arg s⟩
  | volumeSlide h x y => exact ⟨_, passA_keepsLegal (volSlide_keepsLegal _ _ _), exec_volumeSlide h x y s⟩
  | positionJump h arg => exact ⟨_, onFirst_keepsLegal (positionJump_keepsLegal _), exec_positionJump h arg s⟩
  | setVolume h arg => exact ⟨_, setVolume_keepsLegal _ _, exec_setVolume h arg s⟩
  | patternBreak h arg => exact ⟨_, onFirst_keepsLegal (patternBreak_keepsLegal _), exec_patternBreak h arg s⟩
  | extra h x y => exact ⟨_, extraEffect_keepsLegal _ _ _, exec_extra h x y s⟩
  | setSpeed h arg => exact ⟨_, setSpeed_keepsLegal _, exec_setSpeed h arg s⟩
  | newVolume h arg => exact ⟨_, onFirst_keepsLegal (newVolume_keepsLegal _ _), exec_newVolume h arg s⟩
  | waveSpeed h arg => exact ⟨_, waveSpeed_keepsLegal _ _, exec_waveSpeed h arg s⟩
  | arpSpeed h arg => exact ⟨_, arpSpeed_keepsLegal _ _, exec_arpSpeed h arg s⟩
  | fineSlideUp h arg => exact ⟨_, onFirst_keepsLegal (slidePeriod_keepsLegal _ _), exec_fineSlideUp h arg s⟩
  | fineSlideDown h arg => exact ⟨_, onFirst_keepsLegal (slidePeriod_keepsLegal _ _), exec_fineSlideDown h arg s⟩
  | trackVolume h arg => exact ⟨_, trackVolume_keepsLegal _ _, exec_trackVolume h arg s⟩
  | waveMode h arg => exact ⟨_, waveMode_keepsLegal _ _, exec_waveMode h arg s⟩
  | extEvent h arg => exact ⟨_, .id, exec_extEvent h arg s⟩
  | filter h y => exact ⟨_, .id, exec_filter h y s⟩
  | vibWave h y => exact ⟨_, vibWave_keepsLegal _ _, exec_vibWave h y s⟩
  | patternLoop h y => exact ⟨_, onFirst_keepsLegal (patternLoop_keepsLegal _), exec_patternLoop h y s⟩
  | patternDelay h y => exact ⟨_, onFirst_keepsLegal (patternDelay_keepsLegal _), exec_patternDelay h y s⟩

/-- r answers a legal next state with the frame countdown of s. -/
def AnswersLegal (s : State) (r : Result) : Prop :=
  ∃ t, r = .next t ∧ Inv t ∧ t.seq.acc = s.seq.acc

theorem KeepsLegal.answers {f : State → State} (h : KeepsLegal f) {s : State} (hs : Inv s) : AnswersLegal s (.next (f s)) :=
  ⟨f s, rfl, h s hs⟩

/-- Running on from a legal next state with the same countdown. -/
theorem AnswersLegal.of_acc {s t : State} {r : Result} (h : AnswersLegal t r) (e : t.seq.acc = s.seq.acc) :
    AnswersLegal s r := by
  obtain ⟨u, hr, hu, eu⟩ := h
  exact ⟨u, hr, hu, eu.trans e⟩

theorem AnswersLegal.andThen {s : State} {r : Result} {f : State → State} (h : AnswersLegal s r) (hf : KeepsLegal f) :
    AnswersLegal s (Machine.andThen r (fun t => .next (f t))) := by
  obtain ⟨t, rfl, ht, et⟩ := h
  exact (hf.answers ht).of_acc et

theorem exec_answersLegal (i : Instr) {s : State} (h : Inv s) : AnswersLegal s (exec i s) := by
  obtain ⟨f, hf, e⟩ := exec_eq_keepsLegal i s
  rw [e]
  exact (hf.comp (afterLoad_keepsLegal i)).answers h

theorem runDecoded_answersLegal (d : Decoded) {s : State} (h : Inv s) : AnswersLegal s (runDecoded d s) := by
  cases d with
  | instr i => exact exec_answersLegal i h
  | reservedEffect f => exact (loadCell_keepsLegal f).answers h
  | truncated => exact KeepsLegal.id.answers h

theorem runRowCell_answersLegal (pat : Byte) (row : BitVec 6) {s : State} (h : Inv s) :
    AnswersLegal s (runRowCell pat row s) := by
  obtain ⟨hf, ef⟩ := flagIf_keepsLegal (fetchCell pat row s).2 .oobRead s h
  exact (runDecoded_answersLegal _ hf).of_acc ef

theorem Inv.setCh {s : State} (h : Inv s) (c : Channel) : Inv { s with ch := c } :=
  { h with chans := fun d hd => (h.chans d hd).congr rfl rfl rfl rfl }

/-- The cells of all channels answer a legal state if each cell does. -/
theorem runChannels_answersLegal {f : State → Result} (hf : ∀ s, Inv s → AnswersLegal s (f s)) (l : List Channel) {s : State}
    (h : Inv s) : AnswersLegal s (runChannels f l s) := by
  refine runChannels_keeps (fun t => Inv t ∧ t.seq.acc = s.seq.acc) f ?_ ?_ l s ⟨h, rfl⟩
  · rintro t ⟨ht, et⟩
    exact (hf t ht).of_acc et
  · rintro t c ⟨ht, et⟩
    exact ⟨ht.setCh c, et⟩

theorem runRow_answersLegal (pat : Byte) (row : BitVec 6) {s : State} (h : Inv s) : AnswersLegal s (runRow pat row s) :=
  runChannels_answersLegal (fun _ => runRowCell_answersLegal pat row) _ h

theorem runLatched_answersLegal {s : State} (h : Inv s) : AnswersLegal s (runLatched s) :=
  runChannels_answersLegal (fun _ => runDecoded_answersLegal _) _ h

/-! ## The row and the tick -/

theorem beginRow_keepsLegal : KeepsLegal beginRow :=
  keepsLegal_of_seq _ (fun _ => rfl) (fun _ h => { h.seq with curPos := h.seq.pos }) (fun _ => rfl)

/-- A position of the song is entered with no delay armed and the pattern loop uninitialized. -/
theorem SeqInv.enterPosition {g : Song} {rate : BitVec 32} {q : Seq} (h : SeqInv g rate q) {p : BitVec 8}
    (hp : p.toNat < g.numPositions) (r : BitVec 6) (n : BitVec 32) :
    SeqInv g rate { q with
      delay := BitVec.ofInt 8 (-1), loopRow := 0, loopCnt := 0, row := r, loops := n, pos := p } := by
  have unarmed : -1 ≤ (BitVec.ofInt 8 (-1)).toInt ∧ (BitVec.ofInt 8 (-1)).toInt ≤ 14 := by decide
  exact { h with pos := hp, delay := unarmed, loopCnt := .inl (Nat.zero_le _) }

/-- NextPosition goes to a position of the song: past the last one it goes to RESTART. -/
theorem nextPosition_keepsLegal : KeepsLegal nextPosition := by
  intro s h
  unfold nextPosition
  simp only []
  split
  · exact ⟨(h.setSeq _ (h.seq.enterPosition (Song.restart_lt h.song) _ _)).flag _, rfl⟩
  · rename_i hp
    have hpos : (BitVec.ofNat 8 (targetPosition s.seq)).toNat < s.song.numPositions := by
      rw [BitVec.toNat_ofNat]
      exact lt_of_le_of_lt (Nat.mod_le _ _) (Nat.lt_of_not_le hp)
    exact ⟨h.setSeq _ (h.seq.enterPosition hpos _ _), rfl⟩

theorem endRow_keepsLegal : KeepsLegal endRow := by
  intro s h
  unfold endRow
  split
  · exact ⟨h.setSeq _ { h.seq with }, rfl⟩
  · split
    · exact nextPosition_keepsLegal s h
    · split
      · exact ⟨h.setSeq _ { h.seq with }, rfl⟩
      · exact nextPosition_keepsLegal s h

theorem stallRow_inv {s : State} (h : Inv s) (hd : delayArmed s.seq = true) : Inv (stallRow s) := by
  have h0 : 0 ≤ s.seq.delay.toInt := of_decide_eq_true hd
  have h1 := h.seq.delay.2
  have e : (BitVec.ofInt 8 (s.seq.delay.toInt - 1)).toInt = s.seq.delay.toInt - 1 :=
    BitVec.toInt_ofInt_eq_self (by decide) (by omega) (by omega)
  exact h.setSeq _ { h.seq with delay := by simp only [e]; omega }

theorem rowAdvance_answersLegal {s : State} (h : Inv s) : AnswersLegal s (rowAdvance s) := by
  unfold rowAdvance
  split
  · rename_i hd
    exact runLatched_answersLegal (stallRow_inv h hd)
  · obtain ⟨hb, eb⟩ := (flagIf_keepsLegal (posList s s.seq.pos).2 .oobRead).comp beginRow_keepsLegal s h
    exact ((runRow_answersLegal _ _ hb).of_acc eb).andThen endRow_keepsLegal

theorem beginTick_keepsLegal : KeepsLegal beginTick := by
  have dv : ∀ c : Channel, KeepsLegal (fun s => s.setDv c 0) := fun c =>
    keepsLegal_of_channel (fun s => setDv_onlyChannel c s 0) (fun _ => rfl) (fun _ h => h.setDv 0)
  have first : KeepsLegal (fun s => s.setSeq { s.seq with first := false }) :=
    keepsLegal_of_seq _ (fun _ => rfl) (fun _ h => { h.seq with }) (fun _ => rfl)
  exact (forChannels_keepsLegal dv).comp first

theorem tickCells_answersLegal {s : State} (h : Inv s) : AnswersLegal s (tickCells s) := by
  unfold tickCells
  split
  · exact rowAdvance_answersLegal (h.setSeq _ { h.seq with })
  · exact runLatched_answersLegal (h.setSeq _ { h.seq with })

theorem waveStep_cr (c : Channel) (s : State) : (waveStep c s).cr = s.cr := by
  simp only [waveStep]
  repeat' split
  all_goals rfl

theorem instrVibrato_cr (c : Channel) (s : State) : (instrVibrato c s).cr = s.cr := by
  simp only [instrVibrato]
  repeat' split
  all_goals rfl

theorem synthTick_cr (c : Channel) (s : State) : (synthTick c s).cr = s.cr := by
  unfold synthTick
  split
  · rw [instrVibrato_cr, waveStep_cr]; rfl
  · split <;> rfl

theorem tickPhases_keepsLegal : KeepsLegal tickPhases := by
  have arpeggio : ∀ c, KeepsLegal (arpeggioTick c) := fun c =>
    keepsLegal_of_channel (arpeggioTick_onlyChannel c) (fun _ => rfl) (arpeggioTick_chanInv c)
  have compose : ∀ c, KeepsLegal (composePeriod c) := fun c =>
    keepsLegal_of_channel (composePeriod_onlyChannel c) (fun _ => by simp only [composePeriod]; split <;> rfl)
      (composePeriod_chanInv c)
  have synth : ∀ c, KeepsLegal (synthTick c) := fun c =>
    keepsLegal_of_channel (synthTick_onlyChannel c) (synthTick_cr c) (synthTick_chanInv c)
  have mixer : ∀ c, KeepsLegal (mixerUpdate c) := fun c =>
    keepsLegal_of_channel (mixerUpdate_onlyChannel c) (fun _ => rfl) (mixerUpdate_chanInv c)
  exact (forChannels_keepsLegal mixer).comp ((forChannels_keepsLegal synth).comp
    ((forChannels_keepsLegal compose).comp (forChannels_keepsLegal arpeggio)))

theorem tick_answersLegal {s : State} (h : Inv s) : AnswersLegal s (tick s) := by
  obtain ⟨hb, eb⟩ := beginTick_keepsLegal s h
  exact ((tickCells_answersLegal hb).of_acc eb).andThen tickPhases_keepsLegal

/-! ## The frame -/

theorem mixChannel_keepsLegal (c : Channel) : KeepsLegal (fun s => (mixChannel c s).1) :=
  keepsLegal_of_onlyChannel (mixChannel_onlyChannel c) (mixChannel_status_lt c) (fun s _ => mixChannel_chanInv c s)

theorem scopeWrite_keepsLegal (c : Channel) (o : Rat) : KeepsLegal (scopeWrite c o) :=
  keepsLegal_of_onlyChannel (scopeWrite_onlyChannel c o) (fun _ h => h) (fun s h => scopeWrite_chanInv c o s h.scopeLen)

theorem mixInto_inv (a : State × Frame) (c : Channel) (h : Inv a.1) : Inv (mixInto a c).1 := by
  have hm := (mixChannel_keepsLegal c a.1 h).1
  simp only [mixInto]
  split
  · exact (scopeWrite_keepsLegal c _ _ hm).1
  · exact hm

theorem mixAndEmit_inv {s : State} (h : Inv s) : Inv (mixAndEmit s) := by
  have hm : Inv (mixFrame s).1 := List.foldlRecOn (motive := fun a : State × Frame => Inv a.1) s.channels mixInto h
    (fun a ha c _ => mixInto_inv a c ha)
  exact { hm with chans := fun c hc => (hm.chans c hc).congr rfl rfl rfl rfl }

/-- A countdown value the 32-bit register holds exactly. -/
theorem toInt_ofInt_countdown {n : Int} (h0 : 0 ≤ n) (h1 : n < 192000) : (BitVec.ofInt 32 n).toInt = n :=
  BitVec.toInt_ofInt_eq_self (by decide) (by omega) (by omega)

theorem countFrame_inv {s : State} (h : Inv s) (hpos : 0 < s.seq.acc.toInt) : Inv (countFrame s) := by
  have hlt := h.seq.acc.2
  have e := toInt_ofInt_countdown (n := s.seq.acc.toInt - 1) (by omega) (by omega)
  exact h.setSeq _ { h.seq with acc := by simp only [e]; omega }

/-- When a tick is due the countdown stands at 0, and it is reloaded with at least one frame. -/
theorem reloadAcc_inv {s : State} (h : Inv s) (hd : tickDue s.seq = true) :
    Inv (reloadAcc s) ∧ 0 < (reloadAcc s).seq.acc.toInt := by
  have h0 : s.seq.acc.toInt ≤ 0 := of_decide_eq_true hd
  have h1 := h.seq.acc.1
  obtain ⟨hlo, hhi⟩ := samplesPerTick_range s.cr.sampleRate s.seq.tempo h.rate h.seq.tempo
  rw [← h.seq.spt] at hlo hhi
  have e := toInt_ofInt_countdown (n := s.seq.acc.toInt + s.seq.spt.toNat) (by omega) (by omega)
  refine ⟨h.setSeq _ { h.seq with acc := ?_ }, ?_⟩
  · simp only [e]; omega
  · simp only [reloadAcc, setSeq_seq, e]; omega

/-- The first half of a frame: the tick, where one is due (40_sequencer.md R202). -/
def dueTick (s : State) : Result :=
  if tickDue s.seq then tick (reloadAcc s) else .next s

/-- A step that answers runs the tick that is due, if one is, then counts the frame and mixes it. -/
theorem step_eq_next {s t : State} (h : step s = .next t) :
    ∃ u, dueTick s = .next u ∧ t = mixAndEmit (countFrame u) := by
  unfold step stepFrame at h
  split at h
  · obtain ⟨u, hu, e⟩ := andThen_eq_next h
    exact ⟨u, hu, by simpa using e.symm⟩
  · cases h

/-- The first half of a frame leaves a legal state with frames to count. -/
theorem dueTick_inv {s t : State} (h : Inv s) (e : dueTick s = .next t) : Inv t ∧ 0 < t.seq.acc.toInt := by
  unfold dueTick at e
  split at e
  · rename_i hd
    obtain ⟨hr, hpos⟩ := reloadAcc_inv h hd
    obtain ⟨u, hu, iu, au⟩ := tick_answersLegal hr
    obtain rfl : u = t := by simpa [hu] using e
    exact ⟨iu, by rw [au]; exact hpos⟩
  · rename_i hd
    obtain rfl : s = t := by simpa using e
    have : ¬ s.seq.acc.toInt ≤ 0 := by simpa [tickDue] using hd
    exact ⟨h, by omega⟩

/-! ## Gains -/

/-- t has, on every channel, the registers a gain is computed from and the gain that s has. -/
structure SameGains (s t : State) : Prop where
  cfg : t.cfg = s.cfg
  song : t.song = s.song
  voice : ∀ c, t.voice c = s.voice c
  synth : ∀ c, t.synth c = s.synth c
  gain : ∀ c, (t.mixer c).gain = (s.mixer c).gain

theorem SameGains.refl (s : State) : SameGains s s := ⟨rfl, rfl, fun _ => rfl, fun _ => rfl, fun _ => rfl⟩

theorem SameGains.trans {s t u : State} (h : SameGains s t) (k : SameGains t u) : SameGains s u :=
  ⟨k.cfg.trans h.cfg, k.song.trans h.song, fun c => (k.voice c).trans (h.voice c), fun c => (k.synth c).trans (h.synth c),
    fun c => (k.gain c).trans (h.gain c)⟩

theorem SameGains.gainsFollow {s t : State} (h : SameGains s t) (g : GainsFollow s) : GainsFollow t := by
  intro c hc
  rw [State.channels, h.song] at hc
  rw [h.gain, h.cfg, h.song, h.voice, h.synth]
  exact g c hc

theorem settleRegion_gain (m : Mixer) : (settleRegion m).gain = m.gain := by
  unfold settleRegion regionEnd
  repeat' split
  all_goals rfl

theorem setMixer_sameGains (c : Channel) (s : State) (m : Mixer) (h : m.gain = (s.mixer c).gain) :
    SameGains s (s.setMixer c m) where
  cfg := rfl
  song := rfl
  voice := fun _ => voice_setMixer ..
  synth := fun _ => synth_setMixer ..
  gain := fun d => by
    rw [mixer_setMixer_if]
    split
    · rename_i e; rw [h, e]
    · rfl

theorem flagIf_sameGains (b : Bool) (e : Event) (s : State) : SameGains s (flagIf b e s) :=
  ⟨flagIf_cfg .., flagIf_song .., fun _ => flagIf_voice .., fun _ => flagIf_synth .., fun _ => by rw [flagIf_mixer]⟩

theorem mixChannel_sameGains (c : Channel) (s : State) : SameGains s (mixChannel c s).1 := by
  simp only [mixChannel]
  split
  · refine SameGains.trans ?_ (flagIf_sameGains _ _ _)
    exact setMixer_sameGains c s _ (settleRegion_gain _)
  · exact setMixer_sameGains c s _ (settleRegion_gain _)

theorem scopeWrite_sameGains (c : Channel) (o : Rat) (s : State) : SameGains s (scopeWrite c o s) :=
  ⟨rfl, rfl, fun _ => voice_setScope .., fun _ => synth_setScope .., fun _ => by simp [scopeWrite]⟩

theorem mixInto_sameGains (a : State × Frame) (c : Channel) : SameGains a.1 (mixInto a c).1 := by
  have hm := mixChannel_sameGains c a.1
  simp only [mixInto]
  split
  · exact hm.trans (scopeWrite_sameGains c _ _)
  · exact hm

/-- Mixing a frame computes no gain and writes no register of one. -/
theorem mixAndEmit_sameGains (s : State) : SameGains s (mixAndEmit s) := by
  have hm : SameGains s (mixFrame s).1 :=
    List.foldlRecOn (motive := fun a : State × Frame => SameGains s a.1) s.channels mixInto (.refl s)
      (fun a ha c _ => ha.trans (mixInto_sameGains a c))
  exact ⟨hm.cfg, hm.song, hm.voice, hm.synth, hm.gain⟩

theorem countFrame_sameGains (s : State) : SameGains s (countFrame s) :=
  ⟨rfl, rfl, fun _ => rfl, fun _ => rfl, fun _ => rfl⟩

/-- MixerUpdate over all channels makes every gain the one its registers give, whatever it was. -/
theorem mixerUpdates_gainsFollow (s : State) : GainsFollow (forChannels mixerUpdate s) := by
  intro c hc
  obtain ⟨keeps, -, -, -⟩ := foldl_machine mixerUpdate mixerUpdate_onlyChannel s.channels s
  rw [State.channels, show (forChannels mixerUpdate s).song = s.song from keeps.song] at hc
  obtain ⟨u, -, ku, -, e⟩ := foldl_at mixerUpdate mixerUpdate_onlyChannel s.channels (channels_nodup s) s c hc
  change (forChannels mixerUpdate s).chan c = _ at e
  simp only [State.voice, State.synth, State.mixer, e]
  rw [show (forChannels mixerUpdate s).song = s.song from keeps.song,
    show (forChannels mixerUpdate s).cfg = s.cfg from keeps.cfg, ← ku.song, ← ku.cfg]
  change ((mixerUpdate c u).mixer c).gain = gainOf _ _ ((mixerUpdate c u).voice c) ((mixerUpdate c u).synth c)
  simp [mixerUpdate]

theorem tick_gainsFollow {s t : State} (e : tick s = .next t) : GainsFollow t := by
  obtain ⟨u, -, hu⟩ := andThen_eq_next e
  obtain rfl : tickPhases u = t := by simpa using hu
  exact mixerUpdates_gainsFollow _

/-- The first half of a frame keeps gains that follow their registers: a tick computes them anew. -/
theorem dueTick_gainsFollow {s t : State} (h : GainsFollow s) (e : dueTick s = .next t) : GainsFollow t := by
  unfold dueTick at e
  split at e
  · exact tick_gainsFollow e
  · obtain rfl : s = t := by simpa using e
    exact h

/-! ## The step -/

/-- Settles O51: the tick that is due reloads the countdown and keeps the state legal operation by operation, and every gain
follows its registers after it; counting and mixing the frame keep both. -/
theorem everyStepKeepsTheLegalState : Obligations.EveryStepKeepsTheLegalState := by
  intro s t h
  obtain ⟨u, hu, rfl⟩ := step_eq_next h
  constructor
  · intro hs
    obtain ⟨iu, pos⟩ := dueTick_inv hs hu
    exact mixAndEmit_inv (countFrame_inv iu pos)
  · intro gs
    exact ((countFrame_sameGains u).trans (mixAndEmit_sameGains _)).gainsFollow (dueTick_gainsFollow gs hu)

end Sys2Proof.Machine
end

section
/-! PROOFS. The decoder, the encoder and BreakRow (O1 to O5): the decoder is a search in the table of 30_encoding.md R151, and
what the statements ask of it follows from the table's rows. -/

namespace Sys2Proof

/-! ## The decoder as a search in a table -/

/-- The table of 30_encoding.md R151 under a code map: each effect code with the instruction its cells stand for. -/
def effectRows (m : EffectCodeMap) : List (Code × (CellFields → Instr)) :=
  [(m.arp, fun f => .arp f.head (argX f.arg) (argY f.arg)),
   (m.slideUp, fun f => .slideUp f.head f.arg),
   (m.slideDown, fun f => .slideDown f.head f.arg),
   (m.tonePorta, fun f => .tonePorta f.head f.arg),
   (m.vibrato, fun f => .vibrato f.head (argX f.arg) (argY f.arg)),
   (m.tonePortaVslide, fun f => .tonePortaVslide f.head (argX f.arg) (argY f.arg)),
   (m.vibratoVslide, fun f => .vibratoVslide f.head (argX f.arg) (argY f.arg)),
   (m.sampleOffset, fun f => .sampleOffset f.head f.arg),
   (m.volumeSlide, fun f => .volumeSlide f.head (argX f.arg) (argY f.arg)),
   (m.positionJump, fun f => .positionJump f.head f.arg),
   (m.setVolume, fun f => .setVolume f.head f.arg),
   (m.patternBreak, fun f => .patternBreak f.head f.arg),
   (m.extra, fun f => classifyExtra m f.head (argX f.arg) (argY f.arg)),
   (m.setSpeed, fun f => .setSpeed f.head f.arg),
   (m.newVolume, fun f => .newVolume f.head f.arg),
   (m.waveSpeed, fun f => .waveSpeed f.head f.arg),
   (m.arpSpeed, fun f => .arpSpeed f.head f.arg),
   (m.fineSlideUp, fun f => .fineSlideUp f.head f.arg),
   (m.fineSlideDown, fun f => .fineSlideDown f.head f.arg),
   (m.trackVolume, fun f => .trackVolume f.head f.arg),
   (m.waveMode, fun f => .waveMode f.head f.arg),
   (m.extEvent, fun f => .extEvent f.head f.arg)]

/-- The first row with the cell's effect code. -/
def selectRow (f : CellFields) : List (Code × (CellFields → Instr)) → Decoded
  | [] => .reservedEffect f
  | row :: rows => if f.fx = row.1 then .instr (row.2 f) else selectRow f rows

theorem classify_eq_selectRow (m : EffectCodeMap) (f : CellFields) : classify m f = selectRow f (effectRows m) := rfl

theorem effectRows_codes (m : EffectCodeMap) : (effectRows m).map Prod.fst = m.codes := rfl

theorem selectRow_eq_reservedEffect_iff (f g : CellFields) (rows : List (Code × (CellFields → Instr))) :
    selectRow f rows = .reservedEffect g ↔ f.fx ∉ rows.map Prod.fst ∧ g = f := by
  induction rows with
  | nil => simp [selectRow, eq_comm]
  | cons row rows ih =>
    by_cases h : f.fx = row.1
    · simp [selectRow, h]
    · simp [selectRow, h, ih]

theorem selectRow_eq_instr {f : CellFields} {rows : List (Code × (CellFields → Instr))} {i : Instr}
    (h : selectRow f rows = .instr i) : ∃ row ∈ rows, f.fx = row.1 ∧ i = row.2 f := by
  induction rows with
  | nil => cases h
  | cons row rows ih =>
    by_cases hx : f.fx = row.1
    · exact ⟨row, by simp, hx, by simpa [selectRow, hx, eq_comm] using h⟩
    · obtain ⟨r, hr, hi⟩ := ih (by simpa [selectRow, hx] using h)
      exact ⟨r, by simp [hr], hi⟩

/-- Where no two rows share a code, the search finds the row with the cell's code. -/
theorem selectRow_of_mem {f : CellFields} {rows : List (Code × (CellFields → Instr))} (hn : (rows.map Prod.fst).Nodup)
    {row : Code × (CellFields → Instr)} (hr : row ∈ rows) (hx : f.fx = row.1) : selectRow f rows = .instr (row.2 f) := by
  induction rows with
  | nil => cases hr
  | cons r rows ih =>
    obtain ⟨hnot, hn⟩ := List.nodup_cons.1 hn
    rcases List.mem_cons.1 hr with rfl | hr
    · simp [selectRow, hx]
    · have hne : f.fx ≠ r.1 := fun e => hnot (e ▸ hx ▸ List.mem_map_of_mem hr)
      simp [selectRow, hne, ih hn hr]

theorem classify_of_row {m : EffectCodeMap} (hm : m.codes.Nodup) {f : CellFields} (n : Fin 22)
    (hx : f.fx = (effectRows m)[n].1) : classify m f = .instr ((effectRows m)[n].2 f) :=
  selectRow_of_mem (effectRows_codes m ▸ hm) (List.getElem_mem n.isLt) hx

theorem EffectCodeMap.wf_iff (m : EffectCodeMap) : m.wf = true ↔ m.codes.Nodup ∧ m.subcodes.Nodup := by
  simp [EffectCodeMap.wf]

theorem EffectCodeMap.isReserved_iff (m : EffectCodeMap) (fx : Code) : m.isReserved fx = true ↔ fx ∉ m.codes := by
  simp [EffectCodeMap.isReserved]

theorem EffectCodeMap.isReservedSub_iff (m : EffectCodeMap) (x : Nibble) : m.isReservedSub x = true ↔ x ∉ m.subcodes := by
  simp [EffectCodeMap.isReservedSub]

/-! ## Decode of encode -/

/-- Each assigned sub-code selects its own sub-effect (30_encoding.md R152). -/
theorem classifyExtra_assigned {m : EffectCodeMap} (hm : m.subcodes.Nodup) :
    (∀ h y, classifyExtra m h m.filter y = .filter h y) ∧ (∀ h y, classifyExtra m h m.vibWave y = .vibWave h y) ∧
    (∀ h y, classifyExtra m h m.patternLoop y = .patternLoop h y) ∧
    ∀ h y, classifyExtra m h m.patternDelay y = .patternDelay h y := by
  simp only [EffectCodeMap.subcodes, List.nodup_cons, List.mem_cons, List.not_mem_nil, or_false, not_or] at hm
  obtain ⟨⟨h01, h02, h03⟩, ⟨h12, h13⟩, h23, -⟩ := hm
  simp [classifyExtra, Ne.symm h01, Ne.symm h02, Ne.symm h03, Ne.symm h12, Ne.symm h13, Ne.symm h23]

theorem classifyExtra_reserved {m : EffectCodeMap} {x : Nibble} (hx : x ∉ m.subcodes) (h : Head) (y : Nibble) :
    classifyExtra m h x y = .extra h x y := by
  simp only [EffectCodeMap.subcodes, List.mem_cons, List.not_mem_nil, or_false, not_or] at hx
  obtain ⟨h0, h1, h2, h3⟩ := hx
  simp [classifyExtra, h0, h1, h2, h3]

/-- The table's row for the fields of a well-formed instruction is that instruction: one row number for each constructor,
and the EXTRA row for the four sub-effects. -/
theorem classify_fields {m : EffectCodeMap} (hm : m.wf = true) {i : Instr} (hi : i.wf m = true) :
    classify m (i.fields m) = .instr i := by
  obtain ⟨hcodes, hsub⟩ := (EffectCodeMap.wf_iff m).1 hm
  obtain ⟨atFilter, atVibWave, atLoop, atDelay⟩ := classifyExtra_assigned hsub
  have row {f : CellFields} (n : Fin 22) := classify_of_row (f := f) hcodes n
  have nibbles (g : Nibble → Nibble → Instr) (x y : Nibble) :
      Decoded.instr (g (argX (argOf x y)) (argY (argOf x y))) = .instr (g x y) := by rw [argX_argOf, argY_argOf]
  have sub (h : Head) (x y : Nibble) : classify m ((Instr.extra h x y).fields m) = .instr (classifyExtra m h x y) :=
    (row 12 rfl).trans (nibbles (classifyExtra m h) x y)
  cases i with
  | arp h x y => exact (row 0 rfl).trans (nibbles (.arp h) x y)
  | slideUp h arg => exact row 1 rfl
  | slideDown h arg => exact row 2 rfl
  | tonePorta h arg => exact row 3 rfl
  | vibrato h x y => exact (row 4 rfl).trans (nibbles (.vibrato h) x y)
  | tonePortaVslide h x y => exact (row 5 rfl).trans (nibbles (.tonePortaVslide h) x y)
  | vibratoVslide h x y => exact (row 6 rfl).trans (nibbles (.vibratoVslide h) x y)
  | sampleOffset h arg => exact row 7 rfl
  | volumeSlide h x y => exact (row 8 rfl).trans (nibbles (.volumeSlide h) x y)
  | positionJump h arg => exact row 9 rfl
  | setVolume h arg => exact row 10 rfl
  | patternBreak h arg => exact row 11 rfl
  | extra h x y => rw [sub, classifyExtra_reserved ((m.isReservedSub_iff x).1 hi)]
  | setSpeed h arg => exact row 13 rfl
  | newVolume h arg => exact row 14 rfl
  | waveSpeed h arg => exact row 15 rfl
  | arpSpeed h arg => exact row 16 rfl
  | fineSlideUp h arg => exact row 17 rfl
  | fineSlideDown h arg => exact row 18 rfl
  | trackVolume h arg => exact row 19 rfl
  | waveMode h arg => exact row 20 rfl
  | extEvent h arg => exact row 21 rfl
  | filter h y => exact (sub h m.filter y).trans (by rw [atFilter])
  | vibWave h y => exact (sub h m.vibWave y).trans (by rw [atVibWave])
  | patternLoop h y => exact (sub h m.patternLoop y).trans (by rw [atLoop])
  | patternDelay h y => exact (sub h m.patternDelay y).trans (by rw [atDelay])

theorem decode_encode {m : EffectCodeMap} (hm : m.wf = true) {i : Instr} (hi : i.wf m = true) :
    decode m (encode m i) = .instr i := by
  rw [decode, encode, fieldsOf_wordOf, classify_fields hm hi]

theorem decodeBytes_encodeBytes (m : EffectCodeMap) (i : Instr) :
    decodeBytes m (encodeBytes m i) = decode m (encode m i) := by
  rw [encodeBytes, decodeBytes, Machine.wordOfBytes_byteOfWord]

/-- Settles O1: the word carries the instruction's fields, and the table's row for these fields is the instruction. -/
theorem decodeOfEncodeIsTheInstruction : Obligations.DecodeOfEncodeIsTheInstruction := by
  intro m i hm hi
  exact ⟨decode_encode hm hi, (decodeBytes_encodeBytes m i).trans (decode_encode hm hi)⟩

/-! ## Encode of decode -/

theorem argOf_argX_argY (arg : Byte) : argOf (argX arg) (argY arg) = arg := by
  revert arg; unfold argOf argX argY; decide

/-- Putting the fields of a word back together clears its pad bits (30_encoding.md R162, R172). -/
theorem wordOf_fieldsOf (w : CellWord) : wordOf (fieldsOf w) = w &&& 0xFFFF3FFF#32 := by
  apply BitVec.eq_of_getLsbD_eq
  intro k hk
  simp only [wordOf, fieldsOf, BitVec.getLsbD_append, BitVec.getLsbD_extractLsb', BitVec.getLsbD_and]
  interval_cases k <;> simp

theorem fieldsOf_clearPad (w : CellWord) : fieldsOf (w &&& 0xFFFF3FFF#32) = fieldsOf w := by
  rw [← wordOf_fieldsOf, fieldsOf_wordOf]

/-- Whichever Extra row the sub-code selects, its cell has the sub-code and the parameter. -/
theorem classifyExtra_fields (m : EffectCodeMap) (h : Head) (x y : Nibble) :
    (classifyExtra m h x y).fields m = ⟨h.arpidx, h.note, h.inst, m.extra, argOf x y⟩ := by
  unfold classifyExtra
  split_ifs with h0 h1 h2 h3
  · rw [h0]; rfl
  · rw [h1]; rfl
  · rw [h2]; rfl
  · rw [h3]; rfl
  · rfl

/-- A row's instruction has the fields of the cell it was read from, under every code map. -/
theorem effectRows_fields (m : EffectCodeMap) (f : CellFields) :
    ∀ row ∈ effectRows m, (row.2 f).fields m = { f with fx := row.1 } := by
  simp only [effectRows, List.forall_mem_cons, classifyExtra_fields]
  simp [Instr.fields, CellFields.head, argOf_argX_argY]

theorem fields_of_classify {m : EffectCodeMap} {f : CellFields} {i : Instr} (h : classify m f = .instr i) :
    i.fields m = f := by
  rw [classify_eq_selectRow] at h
  obtain ⟨row, hrow, hx, rfl⟩ := selectRow_eq_instr h
  rw [effectRows_fields m f row hrow, ← hx]

/-- Settles O2: the fields ignore the pad bits, and a decoded instruction has exactly the fields of its word. -/
theorem encodeOfDecodeClearsOnlyThePad : Obligations.EncodeOfDecodeClearsOnlyThePad := by
  intro m w
  constructor
  · rw [decode, fieldsOf_clearPad, decode]
  · intro i hi
    rw [encode, fields_of_classify hi, wordOf_fieldsOf]

/-! ## The reserved codes -/

theorem decode_eq_reservedEffect_iff (m : EffectCodeMap) (w : CellWord) (f : CellFields) :
    decode m w = .reservedEffect f ↔ m.isReserved (fieldsOf w).fx = true ∧ f = fieldsOf w := by
  rw [decode, classify_eq_selectRow, selectRow_eq_reservedEffect_iff, effectRows_codes, m.isReserved_iff]

/-- The codes of 30_encoding.md R160, checked on all 64. -/
theorem default_isReserved_iff (fx : Code) :
    EffectCodeMap.default.isReserved fx = true ↔ fx = 0x07#6 ∨ fx = 0x08#6 ∨ 0x18 ≤ fx.toNat := by
  revert fx; decide

/-- Settles O3: the search in the table fails exactly for a code that no row has. -/
theorem decoderRejectsExactlyTheReservedCodes : Obligations.DecoderRejectsExactlyTheReservedCodes :=
  ⟨decode_eq_reservedEffect_iff, default_isReserved_iff⟩

/-! ## Written-out words and the break row -/

/-- Settles O4: each word is decoded. -/
theorem writtenWordsDecodeToTheirInstructions : Obligations.WrittenWordsDecodeToTheirInstructions := by
  unfold Obligations.WrittenWordsDecodeToTheirInstructions
  decide

theorem argOf_tens (x y : Nibble) : (argOf x y &&& 0xF0#8).toNat = 16 * x.toNat := by
  revert x y; unfold argOf; decide

theorem argOf_units (x y : Nibble) : (argOf x y &&& 0x0F#8).toNat = y.toNat := by
  revert x y; unfold argOf; decide

/-- Settles O5: half the high nibble's weight 16 is 8, and a quarter of that is 2, so the sum is 10x + y. -/
theorem breakRowIsTheDecimalReading : Obligations.BreakRowIsTheDecimalReading := by
  intro x y
  have sum : 16 * x.toNat / 2 + 16 * x.toNat / 2 / 4 + y.toNat = 10 * x.toNat + y.toNat := by omega
  simp only [Machine.breakRow, argOf_tens, argOf_units, Nat.shiftRight_eq_div_pow, Nat.reducePow, sum]
  split
  · rw [if_neg (by omega)]; rfl
  · rw [if_pos (by omega), BitVec.toNat_ofNat]; omega

end Sys2Proof
end

section
/-! PROOFS. What a row load writes to STATUS (O22), and the effects whose Dispatch does nothing (O18). -/

namespace Sys2Proof.Machine

/-! ## The bits of STATUS -/

/-- The sticky bits are part of CR. -/
theorem flagged_of_cr {s t : State} (h : t.cr = s.cr) (e : Event) : flagged e t = flagged e s := by
  rw [flagged, flagged, h]

theorem flagIf_cr_congr {s t : State} (h : t.cr = s.cr) (b : Bool) (e : Event) : (flagIf b e t).cr = (flagIf b e s).cr := by
  cases b <;> simp [flagIf, flag, h]

/-- An event that is raised twice is raised once. -/
theorem flagIf_flagIf (a b : Bool) (e : Event) (s : State) : flagIf a e (flagIf b e s) = flagIf (b || a) e s := by
  cases a <;> cases b <;> simp [flagIf, flag, BitVec.or_assoc]

/-- No event has a bit of STATUS above 3 (10_state.md R82). -/
theorem flagIf_status_high (b : Bool) (e : Event) (s : State) {k : Nat} (hk : 4 ≤ k) :
    (flagIf b e s).cr.status.getLsbD k = s.cr.status.getLsbD k := by
  have hcode : e.code < 4 := by cases e <;> decide
  cases b
  · rfl
  · simp [flagIf, flag, show ¬ k < e.code by omega, show k - e.code ≠ 0 by omega]

/-- The events a cell's codes raise: RSVD_FX for an unassigned code, RSVD_EXTRA for an unassigned sub-code of an EXTRA cell
(30_encoding.md R160, R161). -/
theorem flagged_flagReserved (e : Event) (f : CellFields) (s : State) :
    flagged e (flagReserved f s) = (flagged e s || (decide (f.fx ∉ s.cfg.codes.codes) && decide (e = .rsvdFx)) ||
      (decide (f.fx = s.cfg.codes.extra ∧ argX f.arg ∉ s.cfg.codes.subcodes) && decide (e = .rsvdExtra))) := by
  simp [flagReserved, flagged_flagIf, EffectCodeMap.isReserved, EffectCodeMap.isReservedSub]

theorem flagReserved_status_high (f : CellFields) (s : State) {k : Nat} (hk : 4 ≤ k) :
    (flagReserved f s).cr.status.getLsbD k = s.cr.status.getLsbD k := by
  rw [flagReserved, flagIf_status_high _ _ _ hk, flagIf_status_high _ _ _ hk]

/-! ## CR after each part of a row load: OOB_READ for an instrument past NUM_INSTR, and nothing else -/

theorem instrumentAt_eq_none_iff (g : Song) {n : Nat} (hn : n ≠ 0) : g.instrumentAt n = none ↔ g.numInstr < n := by
  rw [Song.instrumentAt, if_neg hn, List.getElem?_eq_none_iff, Song.numInstr]
  omega

/-- Whether a number that is not 0 is past NUM_INSTR, told by what the read of the instrument answers. -/
theorem numInstr_lt_eq_isNone (g : Song) {n : BitVec 6} (hn : n ≠ 0) :
    decide (g.numInstr < n.toNat) = (g.instrumentAt n.toNat).isNone := by
  have hn : n.toNat ≠ 0 := fun h => hn (BitVec.eq_of_toNat_eq h)
  rw [Bool.eq_iff_iff, decide_eq_true_eq, Option.isNone_iff_eq_none, instrumentAt_eq_none_iff g hn]

theorem resolveInstrument_cr (c : Channel) (n : BitVec 6) (s : State) :
    (resolveInstrument c n s).cr = (flagIf (decide (s.song.numInstr < n.toNat)) .oobRead s).cr := by
  unfold resolveInstrument
  split
  · simp_all [flagIf]
  · rename_i hn
    rw [numInstr_lt_eq_isNone s.song hn]
    split <;> simp_all [flagIf]

theorem resolveInstrument_inst (c : Channel) (n : BitVec 6) (s : State) :
    ((resolveInstrument c n s).voice c).inst = resolvedNumber s.song n (s.voice c).inst := by
  unfold resolveInstrument resolvedNumber
  split
  · rfl
  · rename_i hn
    have hnone := numInstr_lt_eq_isNone s.song hn
    split
    · rw [if_neg (by simp_all)]; rfl
    · rw [if_pos (by simp_all)]; simp

theorem triggerSample_cr (c : Channel) (i : Instrument) (b : SampleBody) (s : State) : (triggerSample c i b s).cr = s.cr := by
  simp only [triggerSample]; split <;> rfl

theorem triggerInstrument_cr (c : Channel) (s : State) :
    (triggerInstrument c s).cr = (flagIf (decide (s.song.numInstr < (s.voice c).inst.toNat)) .oobRead s).cr := by
  unfold triggerInstrument
  split
  · simp_all [flagIf, silence]
  · rename_i hn
    rw [numInstr_lt_eq_isNone s.song hn]
    split
    · simp_all [flagIf, silence, flag]
    · split <;> simp_all [flagIf, triggerSample_cr, triggerSynth]

theorem triggerNote_cr (c : Channel) (f : CellFields) (s : State) :
    (triggerNote c f s).cr = (flagIf (decide (s.song.numInstr < (s.voice c).inst.toNat)) .oobRead s).cr := by
  have ht : (trigger c (s.setVoice c { s.voice c with note := f.note })).cr =
      (flagIf (decide (s.song.numInstr < (s.voice c).inst.toNat)) .oobRead s).cr := by
    rw [trigger, triggerInstrument_cr]
    simpa [triggerPitch] using flagIf_cr_congr (by rfl) _ _
  simp only [triggerNote]
  split
  · rw [sampleOffset_cr]; split <;> exact ht
  · split <;> exact ht

/-- The note part of a row load raises OOB_READ at most, and only where the voice's number is past NUM_INSTR. -/
theorem loadNote_cr (c : Channel) (f : CellFields) (prev : BitVec 6) (s : State) :
    ∃ b : Bool, (b = true → s.song.numInstr < (s.voice c).inst.toNat) ∧
      (loadNote c f prev s).cr = (flagIf b .oobRead s).cr := by
  unfold loadNote
  split
  · exact ⟨false, nofun, rfl⟩
  · split
    · exact ⟨false, nofun, rfl⟩
    · exact ⟨_, of_decide_eq_true, triggerNote_cr c f s⟩

theorem flagReserved_latchEffect_cr (c : Channel) (f : CellFields) (s : State) :
    (flagReserved f (latchEffect c f s)).cr = (flagReserved f s).cr := by
  rw [flagReserved]
  exact flagIf_cr_congr (flagIf_cr_congr (by rfl) _ _) _ _

/-- A row load marks the reserved codes, and raises OOB_READ where the cell's instrument is past NUM_INSTR; the note raises it
too only where the number left on the voice is. -/
theorem rowLoad_cr (c : Channel) (f : CellFields) (s : State) :
    ∃ b : Bool, (b = true → s.song.numInstr < (resolvedNumber s.song f.inst (s.voice c).inst).toNat) ∧
      (rowLoad c f s).cr =
        (flagIf (decide (s.song.numInstr < f.inst.toNat) || b) .oobRead (flagReserved f s)).cr := by
  have hsong : (flagReserved f (latchEffect c f s)).song = s.song := by simp [flagReserved, latchEffect]
  have hinst : ((flagReserved f (latchEffect c f s)).voice c).inst = (s.voice c).inst := by
    simp [flagReserved, latchEffect]
  have hresolve := resolveInstrument_cr c f.inst (flagReserved f (latchEffect c f s))
  obtain ⟨b, hb, hnote⟩ := loadNote_cr c f (s.voice c).inst (resolveInstrument c f.inst (flagReserved f (latchEffect c f s)))
  rw [resolveInstrument_inst, (resolveInstrument_onlyChannel c _ _).song, hsong, hinst] at hb
  rw [hsong] at hresolve
  refine ⟨b, hb, ?_⟩
  rw [rowLoad, arpSetup_cr, hnote, ← flagIf_flagIf]
  exact flagIf_cr_congr (hresolve.trans (flagIf_cr_congr (flagReserved_latchEffect_cr c f s) _ _)) _ _

theorem resolvedNumber_le {g : Song} {prev : BitVec 6} (h : prev.toNat ≤ g.numInstr) (inst : BitVec 6) :
    (resolvedNumber g inst prev).toNat ≤ g.numInstr := by
  unfold resolvedNumber
  split_ifs with h0 h1
  · exact h
  · exact h1
  · exact h

/-! ## The statements -/

/-- Settles O22: CR after the row load is CR with the cell's reserved codes marked and OOB_READ raised, and on a voice whose own
number is one of the song the note raises nothing more. -/
theorem rowLoadMarksReservedCodes : Obligations.RowLoadMarksReservedCodes := by
  intro c f s t
  obtain ⟨b, hb, hcr⟩ := rowLoad_cr c f s
  have hflag (e : Event) := flagged_of_cr hcr e
  simp only [flagged_flagIf, flagged_flagReserved] at hflag
  refine ⟨?_, ?_, ?_, fun hpast => ?_, fun hown => ?_, fun k hk => ?_, rfl⟩
  · simp [t, hflag]
  · simp [t, hflag]
  · simp [t, hflag]
  · simp [t, hflag, hpast]
  · have hle := resolvedNumber_le hown f.inst
    have hquiet : b = false := by
      cases b
      · rfl
      · exact absurd (hb rfl) (by omega)
    simp [t, hflag, hquiet]
  · rw [show t.cr = _ from hcr, flagIf_status_high _ _ _ hk, flagReserved_status_high _ _ hk]

/-- On a tick that loads no row a cell runs from the state itself (40_sequencer.md R210). -/
theorem afterLoad_of_not_first (i : Instr) {s : State} (h : s.seq.first = false) : afterLoad i s = s := by
  simp [afterLoad, h]

/-- Settles O18: the four meanings are the row load alone. -/
theorem inertAndRowLoadEffectsDispatchNothing : Obligations.InertAndRowLoadEffectsDispatchNothing := by
  intro h arg x y s
  exact ⟨exec_extEvent h arg s, exec_filter h y s, exec_arp h x y s, exec_sampleOffset h arg s,
    fun i => afterLoad_of_not_first i⟩

end Sys2Proof.Machine
end

section
/-! PROOFS. What a cell, a row and a tick keep of the machine: the parameters, the song, the host's registers and the output
stream, and the place in the song at which the row stands. -/

namespace Sys2Proof.Machine

/-! ## The host's part of the state and the output stream -/

/-- t keeps what no part of a tick writes: the host's part of the state and the output stream (47_mixer.md R553). -/
structure KeepsStream (s t : State) : Prop where
  host : KeepsHost s t
  out : t.out = s.out

theorem KeepsStream.refl (s : State) : KeepsStream s s := ⟨.refl s, rfl⟩

theorem KeepsStream.trans {s t u : State} (h : KeepsStream s t) (k : KeepsStream t u) : KeepsStream s u :=
  ⟨h.host.trans k.host, k.out.trans h.out⟩

theorem OnlyChannel.keepsStream {c : Channel} {s t : State} (h : OnlyChannel c s t) : KeepsStream s t :=
  ⟨h.keepsHost, h.out⟩

theorem setSeq_keepsStream (s : State) (q : Seq) : KeepsStream s (s.setSeq q) := ⟨setSeq_keepsHost s q, rfl⟩

theorem flagIf_keepsStream (b : Bool) (e : Event) (s : State) : KeepsStream s (flagIf b e s) :=
  (flagIf_onlyChannel 0 b e s).keepsStream

theorem setCh_keepsStream (s : State) (c : Channel) : KeepsStream s { s with ch := c } :=
  ⟨⟨rfl, rfl, rfl, rfl, rfl, rfl, BitVec.or_self⟩, rfl⟩

theorem forChannels_keepsStream {f : Channel → State → State} (hf : ∀ c s, OnlyChannel c s (f c s)) (s : State) :
    KeepsStream s (forChannels f s) := by
  obtain ⟨host, -, out, -⟩ := foldl_machine f hf s.channels s
  exact ⟨host, out⟩

/-! ## The place of the row -/

/-- The registers of S that say which row is played and on which tick of it; no cell writes them (40_sequencer.md R212). -/
structure SamePlace (p q : Seq) : Prop where
  pos : q.pos = p.pos
  row : q.row = p.row
  curRow : q.curRow = p.curRow
  tick : q.tick = p.tick
  first : q.first = p.first

/-- What a cell keeps: the host's part of the state, the output stream and the place of the row. -/
structure CellKeeps (s t : State) : Prop where
  stream : KeepsStream s t
  place : SamePlace s.seq t.seq

theorem CellKeeps.refl (s : State) : CellKeeps s s := ⟨.refl s, rfl, rfl, rfl, rfl, rfl⟩

theorem CellKeeps.trans {s t u : State} (h : CellKeeps s t) (k : CellKeeps t u) : CellKeeps s u where
  stream := h.stream.trans k.stream
  place := ⟨k.place.pos.trans h.place.pos, k.place.row.trans h.place.row, k.place.curRow.trans h.place.curRow,
    k.place.tick.trans h.place.tick, k.place.first.trans h.place.first⟩

theorem OnlyChannel.cellKeeps {c : Channel} {s t : State} (h : OnlyChannel c s t) : CellKeeps s t :=
  ⟨h.keepsStream, by rw [h.seq]; exact ⟨rfl, rfl, rfl, rfl, rfl⟩⟩

theorem setSeq_cellKeeps (s : State) {q : Seq} (h : SamePlace s.seq q) : CellKeeps s (s.setSeq q) :=
  ⟨setSeq_keepsStream s q, h⟩

theorem CellKeeps.setCh {s t : State} (h : CellKeeps s t) (c : Channel) : CellKeeps s { t with ch := c } :=
  h.trans ⟨setCh_keepsStream t c, rfl, rfl, rfl, rfl, rfl⟩

/-! ## Handlers that write S -/

theorem onFirst_cellKeeps {f : State → State} (hf : ∀ s, CellKeeps s (f s)) (s : State) : CellKeeps s (onFirst f s) := by
  unfold onFirst
  split
  · exact hf s
  · exact .refl s

theorem positionJump_cellKeeps (arg : Byte) (s : State) : CellKeeps s (positionJump arg s) :=
  setSeq_cellKeeps s ⟨rfl, rfl, rfl, rfl, rfl⟩

theorem patternBreak_cellKeeps (arg : Byte) (s : State) : CellKeeps s (patternBreak arg s) :=
  setSeq_cellKeeps s ⟨rfl, rfl, rfl, rfl, rfl⟩

/-- SET_SPEED writes S, and of S the speed, the tempo and the tick length at most. -/
theorem setSpeed_eq (arg : Byte) (s : State) : ∃ speed tempo spt,
    setSpeed arg s = s.setSeq { s.seq with speed := speed, tempo := tempo, spt := spt } := by
  unfold setSpeed
  split
  · exact ⟨_, _, _, rfl⟩
  · split
    · exact ⟨_, _, _, rfl⟩
    · split
      · split <;> exact ⟨_, _, _, rfl⟩
      · exact ⟨_, _, _, rfl⟩

theorem setSpeed_cellKeeps (arg : Byte) (s : State) : CellKeeps s (setSpeed arg s) := by
  obtain ⟨speed, tempo, spt, e⟩ := setSpeed_eq arg s
  rw [e]
  exact setSeq_cellKeeps s ⟨rfl, rfl, rfl, rfl, rfl⟩

theorem loopCounter_samePlace (y : Nibble) (q : Seq) : SamePlace q (loopCounter y q) := by
  unfold loopCounter
  repeat' split
  all_goals exact ⟨rfl, rfl, rfl, rfl, rfl⟩

theorem patternLoop_cellKeeps (y : Nibble) (s : State) : CellKeeps s (patternLoop y s) :=
  setSeq_cellKeeps s (loopCounter_samePlace y s.seq)

theorem patternDelay_cellKeeps (y : Nibble) (s : State) : CellKeeps s (patternDelay y s) := by
  unfold patternDelay
  split
  · exact .refl s
  · exact setSeq_cellKeeps s ⟨rfl, rfl, rfl, rfl, rfl⟩

theorem extraEffect_cellKeeps (c : Channel) (x y : Nibble) (s : State) : CellKeeps s (extraEffect c x y s) := by
  unfold extraEffect
  split
  · exact .refl s
  · split
    · exact (setVoice_onlyChannel c s _).cellKeeps
    · split
      · exact onFirst_cellKeeps (patternLoop_cellKeeps y) s
      · split
        · exact onFirst_cellKeeps (patternDelay_cellKeeps y) s
        · exact .refl s

/-! ## Cells -/

/-- Every instruction answers what a handler leaves of the state after the row load, and every handler keeps what a cell
keeps. -/
theorem exec_eq_cellKeeps (i : Instr) (s : State) :
    ∃ f : State → State, (∀ t, CellKeeps t (f t)) ∧ exec i s = .next (f (afterLoad i s)) := by
  have slide (d : Int) (t : State) := slidePeriod_onlyChannel s.ch d t
  have volume (x y : Nibble) (t : State) := volSlide_onlyChannel s.ch x y t
  cases i with
  | arp h x y => exact ⟨_, .refl, exec_arp h x y s⟩
  | slideUp h arg => exact ⟨_, fun t => (passA_onlyChannel (slide _) t).cellKeeps, exec_slideUp h arg s⟩
  | slideDown h arg => exact ⟨_, fun t => (passA_onlyChannel (slide _) t).cellKeeps, exec_slideDown h arg s⟩
  | tonePorta h arg =>
    exact ⟨_, fun t => (passA_onlyChannel (tonePorta_onlyChannel _ _) t).cellKeeps, exec_tonePorta h arg s⟩
  | vibrato h x y =>
    exact ⟨_, fun t => (passA_onlyChannel (vibrato_onlyChannel _ _ _) t).cellKeeps, exec_vibrato h x y s⟩
  | tonePortaVslide h x y =>
    exact ⟨_, fun t => (passA_onlyChannel (tonePortaVslide_onlyChannel _ _ _) t).cellKeeps, exec_tonePortaVslide h x y s⟩
  | vibratoVslide h x y =>
    exact ⟨_, fun t => (passA_onlyChannel (fun u => (vibratoStep_onlyChannel _ u).trans (volume x y _)) t).cellKeeps,
      exec_vibratoVslide h x y s⟩
  | sampleOffset h arg => exact ⟨_, .refl, exec_sampleOffset h arg s⟩
  | volumeSlide h x y => exact ⟨_, fun t => (passA_onlyChannel (volume x y) t).cellKeeps, exec_volumeSlide h x y s⟩
  | positionJump h arg => exact ⟨_, onFirst_cellKeeps (positionJump_cellKeeps arg), exec_positionJump h arg s⟩
  | setVolume h arg => exact ⟨_, fun t => (setVoice_onlyChannel _ t _).cellKeeps, exec_setVolume h arg s⟩
  | patternBreak h arg => exact ⟨_, onFirst_cellKeeps (patternBreak_cellKeeps arg), exec_patternBreak h arg s⟩
  | extra h x y => exact ⟨_, extraEffect_cellKeeps s.ch x y, exec_extra h x y s⟩
  | setSpeed h arg => exact ⟨_, setSpeed_cellKeeps arg, exec_setSpeed h arg s⟩
  | newVolume h arg =>
    exact ⟨_, onFirst_cellKeeps (fun t => (setSynth_onlyChannel _ t _).cellKeeps), exec_newVolume h arg s⟩
  | waveSpeed h arg => exact ⟨_, fun t => (setSynth_onlyChannel _ t _).cellKeeps, exec_waveSpeed h arg s⟩
  | arpSpeed h arg => exact ⟨_, fun t => (setVoice_onlyChannel _ t _).cellKeeps, exec_arpSpeed h arg s⟩
  | fineSlideUp h arg => exact ⟨_, onFirst_cellKeeps (fun t => (slide _ t).cellKeeps), exec_fineSlideUp h arg s⟩
  | fineSlideDown h arg => exact ⟨_, onFirst_cellKeeps (fun t => (slide _ t).cellKeeps), exec_fineSlideDown h arg s⟩
  | trackVolume h arg => exact ⟨_, fun t => (setVoice_onlyChannel _ t _).cellKeeps, exec_trackVolume h arg s⟩
  | waveMode h arg => exact ⟨_, fun t => (setSynth_onlyChannel _ t _).cellKeeps, exec_waveMode h arg s⟩
  | extEvent h arg => exact ⟨_, .refl, exec_extEvent h arg s⟩
  | filter h y => exact ⟨_, .refl, exec_filter h y s⟩
  | vibWave h y => exact ⟨_, fun t => (setVoice_onlyChannel _ t _).cellKeeps, exec_vibWave h y s⟩
  | patternLoop h y => exact ⟨_, onFirst_cellKeeps (patternLoop_cellKeeps y), exec_patternLoop h y s⟩
  | patternDelay h y => exact ⟨_, onFirst_cellKeeps (patternDelay_cellKeeps y), exec_patternDelay h y s⟩

theorem exec_cellKeeps (i : Instr) (s : State) : ∃ t, exec i s = .next t ∧ CellKeeps s t := by
  obtain ⟨f, hf, e⟩ := exec_eq_cellKeeps i s
  exact ⟨_, e, (afterLoad_onlyChannel i s).cellKeeps.trans (hf _)⟩

/-- Whatever the decoder answered, the cell completes (60_exceptions.md R580). -/
theorem runDecoded_cellKeeps (d : Decoded) (s : State) : ∃ t, runDecoded d s = .next t ∧ CellKeeps s t := by
  cases d with
  | instr i => exact exec_cellKeeps i s
  | reservedEffect f => exact ⟨_, rfl, (loadCell_onlyChannel f s).cellKeeps⟩
  | truncated => exact ⟨s, rfl, .refl s⟩

theorem runRowCell_cellKeeps (pat : Byte) (row : BitVec 6) (s : State) :
    ∃ t, runRowCell pat row s = .next t ∧ CellKeeps s t := by
  obtain ⟨t, e, k⟩ := runDecoded_cellKeeps (decode s.cfg.codes (fetchCell pat row s).1)
    (flagIf (fetchCell pat row s).2 .oobRead s)
  exact ⟨t, e, (flagIf_onlyChannel 0 _ _ s).cellKeeps.trans k⟩

/-- The cells of all channels keep what every cell keeps. -/
theorem runChannels_cellKeeps {f : State → Result} (hf : ∀ s, ∃ t, f s = .next t ∧ CellKeeps s t) (l : List Channel)
    (s : State) : ∃ t, runChannels f l s = .next t ∧ CellKeeps s t := by
  refine runChannels_keeps (CellKeeps s) f (fun t ht => ?_) (fun t c ht => ht.setCh c) l s (.refl s)
  obtain ⟨u, e, k⟩ := hf t
  exact ⟨u, e, ht.trans k⟩

/-- Two ways to run a cell that agree on every state a cell can leave of s, on each of the channels, run the channels alike. -/
theorem runChannels_congr {f g : State → Result} {s : State} {l : List Channel}
    (hf : ∀ t, ∃ u, f t = .next u ∧ CellKeeps t u) (e : ∀ t, CellKeeps s t → t.ch ∈ l → f t = g t) :
    runChannels f l s = runChannels g l s := by
  suffices H : ∀ (m : List Channel) (t : State), CellKeeps s t → (∀ c ∈ m, c ∈ l) → runChannels f m t = runChannels g m t from
    H l s (.refl s) (fun _ h => h)
  intro m
  induction m with
  | nil => intros; rfl
  | cons c m ih =>
    intro t ht hm
    obtain ⟨u, hu, k⟩ := hf { t with ch := c }
    have hg : g { t with ch := c } = .next u := (e _ (ht.setCh c) (hm c (by simp))).symm.trans hu
    simpa [runChannels, hu, hg] using ih u ((ht.setCh c).trans k) (fun d hd => hm d (by simp [hd]))

/-! ## The row and the tick -/

theorem nextPosition_keepsStream (s : State) : KeepsStream s (nextPosition s) := by
  refine ⟨nextPosition_keepsHost s, ?_⟩
  simp only [nextPosition]
  split <;> rfl

theorem endRow_keepsStream (s : State) : KeepsStream s (endRow s) := by
  refine ⟨endRow_keepsHost s, ?_⟩
  unfold endRow
  split
  · rfl
  · split
    · exact (nextPosition_keepsStream s).out
    · split
      · rfl
      · exact (nextPosition_keepsStream s).out

theorem runRow_cellKeeps (pat : Byte) (row : BitVec 6) (s : State) : ∃ t, runRow pat row s = .next t ∧ CellKeeps s t :=
  runChannels_cellKeeps (runRowCell_cellKeeps pat row) s.channels s

theorem runLatched_cellKeeps (s : State) : ∃ t, runLatched s = .next t ∧ CellKeeps s t :=
  runChannels_cellKeeps (fun _ => runDecoded_cellKeeps _ _) s.channels s

theorem rowAdvance_keepsStream (s : State) : ∃ t, rowAdvance s = .next t ∧ KeepsStream s t := by
  unfold rowAdvance
  split
  · obtain ⟨t, e, k⟩ := runLatched_cellKeeps (stallRow s)
    exact ⟨t, e, (setSeq_keepsStream s _).trans k.stream⟩
  · have hbegin : KeepsStream s (flagIf (posList s s.seq.pos).2 .oobRead (beginRow s)) :=
      (setSeq_keepsStream s _).trans (flagIf_keepsStream _ _ _)
    obtain ⟨t, e, k⟩ := runRow_cellKeeps (posList s s.seq.pos).1 s.seq.row
      (flagIf (posList s s.seq.pos).2 .oobRead (beginRow s))
    exact ⟨endRow t, by simp only [e, andThen_next], (hbegin.trans k.stream).trans (endRow_keepsStream t)⟩

theorem tickCells_keepsStream (s : State) : ∃ t, tickCells s = .next t ∧ KeepsStream s t := by
  unfold tickCells
  split
  · obtain ⟨t, e, k⟩ := rowAdvance_keepsStream (s.setSeq { s.seq with tick := 0 })
    exact ⟨t, e, (setSeq_keepsStream s _).trans k⟩
  · obtain ⟨t, e, k⟩ := runLatched_cellKeeps (s.setSeq { s.seq with tick := BitVec.ofNat 8 (s.seq.tick.toNat + 1) })
    exact ⟨t, e, (setSeq_keepsStream s _).trans k.stream⟩

theorem beginTick_keepsStream (s : State) : KeepsStream s (beginTick s) :=
  (setSeq_keepsStream s _).trans (forChannels_keepsStream (fun c t => setDv_onlyChannel c t 0) _)

theorem tickPhases_keepsStream (s : State) : KeepsStream s (tickPhases s) :=
  (((forChannels_keepsStream arpeggioTick_onlyChannel s).trans (forChannels_keepsStream composePeriod_onlyChannel _)).trans
    (forChannels_keepsStream synthTick_onlyChannel _)).trans (forChannels_keepsStream mixerUpdate_onlyChannel _)

theorem tick_keepsStream (s : State) : ∃ t, tick s = .next t ∧ KeepsStream s t := by
  obtain ⟨t, e, k⟩ := tickCells_keepsStream (beginTick s)
  exact ⟨tickPhases t, by simp only [tick, e, andThen_next],
    ((beginTick_keepsStream s).trans k).trans (tickPhases_keepsStream t)⟩

theorem dueTick_keepsStream (s : State) : ∃ t, dueTick s = .next t ∧ KeepsStream s t := by
  unfold dueTick
  split
  · obtain ⟨t, e, k⟩ := tick_keepsStream (reloadAcc s)
    exact ⟨t, e, (setSeq_keepsStream s _).trans k⟩
  · exact ⟨s, rfl, .refl s⟩

end Sys2Proof.Machine
end

section
/-! PROOFS. The position change and the row's end (O41, O42), and the word the next step fetches (O46). -/

namespace Sys2Proof.Machine

/-! ## CR under one event -/

/-- An event writes its own bit of STATUS only. -/
theorem flagIf_status_other (b : Bool) (e : Event) (s : State) {k : Nat} (hk : k ≠ e.code) :
    (flagIf b e s).cr.status.getLsbD k = s.cr.status.getLsbD k := by
  cases b
  · rfl
  · simp [flagIf, flag]; omega

theorem flagIf_cr_eq (b : Bool) (e : Event) (s : State) :
    (flagIf b e s).cr = { s.cr with status := (flagIf b e s).cr.status } := by
  cases b <;> rfl

/-! ## The position change -/

/-- NextPosition writes S and raises SONG_END past the last position, and does nothing else. -/
theorem nextPosition_eq (s : State) :
    nextPosition s = flagIf (decide (s.song.numPositions ≤ targetPosition s.seq)) .songEnd (s.setSeq { s.seq with
      delay := BitVec.ofInt 8 (-1)
      loopRow := 0
      loopCnt := 0
      row := if s.seq.brk then s.seq.brkRow else 0
      pos := if s.song.numPositions ≤ targetPosition s.seq then s.song.restart else BitVec.ofNat 8 (targetPosition s.seq)
      loops := if s.song.numPositions ≤ targetPosition s.seq then bumpLoops s.seq.loops else s.seq.loops }) := by
  simp only [nextPosition]
  by_cases h : s.song.numPositions ≤ targetPosition s.seq
  · simp only [h, if_true, decide_true, flagIf]
  · simp only [h, if_false, decide_false, flagIf, Bool.false_eq_true]

/-- Settles O41: NextPosition is a write of S followed by SONG_END where the song ended. -/
theorem nextPositionWrapsToRestart : Obligations.NextPositionWrapsToRestart := by
  intro s q p ended t
  have ht : t = _ := nextPosition_eq s
  rw [ht]
  refine ⟨flagIf_seq .., ?_, fun k hk => flagIf_status_other _ _ _ hk, flagIf_cr_eq .., flagIf_loaded .., flagIf_chans ..,
    flagIf_song .., flagIf_cfg .., flagIf_out .., flagIf_ch ..⟩
  show _ = (flagged .songEnd s || decide (s.song.numPositions ≤ targetPosition s.seq))
  simp [flagged_flagIf, flagged_of_cr (setSeq_cr s _)]

/-! ## The row's end -/

/-- Settles O42: below row 63 the 6-bit row register holds the next row, and a row past it changes the position as a jump or a
break does. -/
theorem rowEndChoosesTheNextRow : Obligations.RowEndChoosesTheNextRow := by
  intro s
  have hrow : BitVec.ofNat 6 (s.seq.row.toNat + 1) = s.seq.row + 1 := by
    apply BitVec.eq_of_toNat_eq
    simp [BitVec.toNat_add]
  have hlast : s.seq.row.toNat + 1 < rowsPerPattern ↔ s.seq.row.toNat < 63 := by
    simp only [rowsPerPattern]; omega
  simp only [endRow, hrow, hlast]
  by_cases hloop : s.seq.loopFlag = true
  · rw [if_pos hloop, if_pos hloop]
  · rw [if_neg hloop, if_neg hloop]
    cases hjmp : s.seq.jmp <;> cases hbrk : s.seq.brk <;> simp

/-! ## The fetch -/

/-- A cell stored where PAT has room reads back. -/
theorem cellAt_setCell {g : Song} (h : g.pat.wf = true) {pat row ch : Nat}
    (hin : pat < g.numPatterns ∧ row < rowsPerPattern ∧ ch < g.variant.nch) (w : CellWord) :
    (g.setCell pat row ch w).cellAt pat row ch = some w :=
  (if_pos hin).trans (congrArg some (readWord_writeWord g.pat (g.cellAddr pat row ch) w h))

theorem Variant.nch_pos (v : Variant) : 0 < v.nch := by cases v <;> decide

/-- Settles O46: each register the placing writes is written so that its test holds, and the stored cell reads back. -/
theorem placedFetchWordIsFetchedNext : Obligations.PlacedFetchWordIsFetchedNext := by
  intro s w hw t
  have hword : BitVec.ofNat 32 (w.toNat % 2 ^ 32) = w := by
    rw [Nat.mod_eq_of_lt w.isLt, BitVec.ofNat_toNat, BitVec.setWidth_eq]
  have ht : t = placeFetchWord s w := congrArg (placeFetchWord s) hword
  rw [ht]
  refine ⟨rfl, ?_, ?_, ?_, ?_⟩
  · show decide ((if tickDue s.seq then s.seq.acc else 0).toInt ≤ 0) = true
    split
    · assumption
    · rfl
  · show decide (s.seq.speed.toNat ≤
      (if rowTickDue s.seq then s.seq.tick else BitVec.ofNat 8 (s.seq.speed.toNat - 1)).toNat + 1) = true
    split
    · assumption
    · have := s.seq.speed.isLt
      rw [decide_eq_true_eq, BitVec.toNat_ofNat]
      omega
  · show decide (0 ≤ (if delayArmed s.seq then BitVec.ofInt 8 (-1) else s.seq.delay).toInt) = false
    split
    · rfl
    · rename_i h
      exact Bool.eq_false_iff.2 h
  · have hin : (posList s s.seq.pos).1.toNat < max s.song.numPatterns ((posList s s.seq.pos).1.toNat + 1) ∧
        s.seq.row.toNat < rowsPerPattern ∧ 0 < s.song.variant.nch :=
      ⟨by omega, s.seq.row.isLt, s.song.variant.nch_pos⟩
    exact cellAt_setCell (g := { s.song with
      numPatterns := max s.song.numPatterns ((posList s s.seq.pos).1.toNat + 1) }) hw hin w

end Sys2Proof.Machine
end

section
/-! PROOFS. The frame (O47, O50) and the cells a step runs (O44, O45). -/

namespace Sys2Proof.Machine

/-! ## The mixed frame -/

theorem mixInto_onlyChannel (a : State × Frame) (c : Channel) : OnlyChannel c a.1 (mixInto a c).1 := by
  have hm := mixChannel_onlyChannel c a.1
  simp only [mixInto]
  split
  · exact hm.trans (scopeWrite_onlyChannel c _ _)
  · exact hm

/-- Mixing keeps what a cell keeps, and all of S. -/
theorem mixFrame_keeps (s : State) : KeepsStream s (mixFrame s).1 ∧ (mixFrame s).1.seq = s.seq :=
  List.foldlRecOn (motive := fun a : State × Frame => KeepsStream s a.1 ∧ a.1.seq = s.seq) s.channels mixInto
    ⟨.refl s, rfl⟩
    (fun a ha c _ => ⟨ha.1.trans (mixInto_onlyChannel a c).keepsStream, (mixInto_onlyChannel a c).seq.trans ha.2⟩)

theorem mixAndEmit_out (s : State) : (mixAndEmit s).out = s.out ++ [(mixFrame s).2] :=
  congrArg (· ++ [(mixFrame s).2]) (mixFrame_keeps s).1.out

theorem mixAndEmit_seq (s : State) : (mixAndEmit s).seq = s.seq := (mixFrame_keeps s).2

theorem mixAndEmit_keepsHost (s : State) : KeepsHost s (mixAndEmit s) :=
  have ⟨cfg, loaded, song, scopeEn, sampleRate, stereoMix, status⟩ := (mixFrame_keeps s).1.host
  ⟨cfg, loaded, song, scopeEn, sampleRate, stereoMix, status⟩

/-! ## The step -/

theorem andThen_assoc (r : Result) (f g : State → Result) : andThen (andThen r f) g = andThen r (fun t => andThen (f t) g) := by
  cases r <;> rfl

/-- A step of a held song: the tick that is due, the countdown, the mixed frame (40_sequencer.md R202). -/
theorem step_eq_of_loaded {s : State} (h : s.loaded = true) :
    step s = andThen (dueTick s) (fun t => .next (mixAndEmit (countFrame t))) :=
  if_pos h

/-- Settles O50: the tick that is due answers and appends nothing, and the mixed frame is appended once. -/
theorem everyStepEmitsOneFrame : Obligations.EveryStepEmitsOneFrame := by
  intro s h
  obtain ⟨t, e, k⟩ := dueTick_keepsStream s
  refine ⟨mixAndEmit (countFrame t), (mixFrame (countFrame t)).2, by rw [step_eq_of_loaded h, e, andThen_next], ?_, ?_⟩
  · rw [mixAndEmit_out, show (countFrame t).out = t.out from rfl, k.out]
  · exact (k.host.trans (setSeq_keepsHost t _)).trans (mixAndEmit_keepsHost _)

/-! ## Frames between ticks -/

/-- While the countdown runs no tick is due, so the step counts and mixes. -/
theorem step_of_counting {s : State} (h : s.loaded = true) (hacc : 0 < s.seq.acc.toInt) :
    step s = .next (mixAndEmit (countFrame s)) := by
  have hd : tickDue s.seq = false := decide_eq_false (by omega)
  rw [step_eq_of_loaded h, dueTick, hd, if_neg Bool.false_ne_true, andThen_next]

/-- A positive countdown goes down by exactly 1. -/
theorem countFrame_acc {s : State} (hacc : 0 < s.seq.acc.toInt) : (countFrame s).seq.acc.toInt = s.seq.acc.toInt - 1 := by
  have := BitVec.toInt_lt (x := s.seq.acc)
  exact BitVec.toInt_ofInt_eq_self (by decide) (by omega) (by omega)

/-- n frames while the countdown lasts. -/
theorem decodeFrames_of_counting (n : Nat) {s : State} (h : s.loaded = true) (hacc : (n : Int) ≤ s.seq.acc.toInt) :
    ∃ t, decodeFrames n s = .next t ∧ t.seq = { s.seq with acc := BitVec.ofInt 32 (s.seq.acc.toInt - n) } ∧
      ∀ c, t.voice c = s.voice c ∧ t.synth c = s.synth c := by
  induction n generalizing s with
  | zero => exact ⟨s, rfl, by simp, fun c => ⟨rfl, rfl⟩⟩
  | succ n ih =>
    have hpos : 0 < s.seq.acc.toInt := by omega
    have hseq : (mixAndEmit (countFrame s)).seq = (countFrame s).seq := mixAndEmit_seq _
    have hcount : (mixAndEmit (countFrame s)).seq.acc.toInt = s.seq.acc.toInt - 1 := by rw [hseq, countFrame_acc hpos]
    have hsame := (countFrame_sameGains s).trans (mixAndEmit_sameGains (countFrame s))
    obtain ⟨t, e, q, k⟩ := ih (s := mixAndEmit (countFrame s)) ((mixAndEmit_keepsHost _).loaded.trans h) (by omega)
    refine ⟨t, ?_, ?_, fun c => ⟨(k c).1.trans (hsame.voice c), (k c).2.trans (hsame.synth c)⟩⟩
    · have hstep : stepFrame s = .next (mixAndEmit (countFrame s)) := step_of_counting h hpos
      rw [decodeFrames, hstep, andThen_next, e]
    · have hacc' : s.seq.acc.toInt - 1 - (n : Int) = s.seq.acc.toInt - (n + 1 : Nat) := by omega
      rw [q, hcount, hacc', hseq]
      rfl

/-- Settles O47, by induction on the number of frames; the frame's own step keeps the output up to the frame it appends. -/
theorem framesBetweenTicksCountDownAndMix : Obligations.FramesBetweenTicksCountDownAndMix := by
  constructor
  · intro s h hacc r
    have hout : (mixFrame (countFrame s)).1.out = s.out := (mixFrame_keeps (countFrame s)).1.out
    rw [step_of_counting h hacc, mixAndEmit, emit, hout]
    rfl
  · exact fun n s => decodeFrames_of_counting n

/-! ## The start of a tick -/

/-- Clearing the deltas of a list of channels, written as one state. -/
theorem foldl_setDv (l : List Channel) (s : State) :
    l.foldl (fun t c => t.setDv c 0) s =
      { s with chans := Vector.ofFn (fun c : Channel => if c ∈ l then { s.chan c with dv := 0 } else s.chan c) } := by
  induction l generalizing s with
  | nil =>
    have hchans : s.chans = Vector.ofFn (fun c : Channel => s.chan c) := by ext i hi; simp [State.chan]
    simp [← hchans]
  | cons a l ih =>
    have hbank (c : Channel) : (if c ∈ l then { (s.setDv a 0).chan c with dv := 0 } else (s.setDv a 0).chan c) =
        if c ∈ a :: l then { s.chan c with dv := 0 } else s.chan c := by
      by_cases hc : c = a
      · subst hc; simp [State.setDv]
      · simp [chan_setDv_other s a c 0 hc, hc]
    rw [List.foldl_cons, ih]
    simp only [hbank]
    rfl

theorem forChannels_setDv (s : State) : forChannels (fun c t => t.setDv c 0) s = withoutDeltas s := by
  have h := foldl_setDv s.channels s
  simp only [mem_channels] at h
  exact h

/-- The state at the start of a due tick: the countdown reloaded, S.first and the deltas cleared (40_sequencer.md R202,
R204). -/
def tickStart (s : State) : State :=
  (withoutDeltas s).setSeq { s.seq with
    acc := BitVec.ofInt 32 (s.seq.acc.toInt + s.seq.spt.toNat), first := false }

theorem beginTick_reloadAcc (s : State) : beginTick (reloadAcc s) = tickStart s := by
  rw [beginTick, forChannels_setDv]
  rfl

/-- What follows the cells of a tick: its phases, the countdown and the mixed frame (40_sequencer.md R202, R204). -/
def finishTick (t : State) : Result := .next (mixAndEmit (countFrame (tickPhases t)))

/-- A step on which a tick is due: the cells of the tick, and what follows them. -/
theorem step_of_due {s : State} (h : s.loaded = true) (hacc : s.seq.acc.toInt ≤ 0) :
    step s = andThen (tickCells (tickStart s)) finishTick := by
  have hd : tickDue s.seq = true := decide_eq_true hacc
  rw [step_eq_of_loaded h, dueTick, hd, if_pos rfl, tick, beginTick_reloadAcc, andThen_assoc]
  rfl

theorem tickCells_of_rowTick {s : State} (h : s.seq.speed.toNat ≤ s.seq.tick.toNat + 1) :
    tickCells s = rowAdvance (s.setSeq { s.seq with tick := 0 }) :=
  if_pos (decide_eq_true h)

theorem tickCells_of_inRow {s : State} (h : s.seq.tick.toNat + 1 < s.seq.speed.toNat) :
    tickCells s = runLatched (s.setSeq { s.seq with tick := BitVec.ofNat 8 (s.seq.tick.toNat + 1) }) :=
  if_neg (by simp only [rowTickDue, decide_eq_true_eq]; omega)

/-! ## The row's cells -/

/-- On a channel whose cell is w the row tick runs what w decodes to. -/
theorem runRowCell_of_cellAt {pat : Byte} {row : BitVec 6} {t : State} {w : CellWord}
    (h : t.song.cellAt pat.toNat row.toNat t.ch.val = some w) :
    runRowCell pat row t = runDecoded (decode t.cfg.codes w) t := by
  simp [runRowCell, fetchCell, h, flagIf]

/-- A row advance with no delay armed, where the position list names a pattern. -/
theorem rowAdvance_of_unarmed {s : State} {pat : Byte} (hd : delayArmed s.seq = false)
    (hp : s.song.posAt s.seq.pos.toNat = some pat) :
    rowAdvance s = andThen (runRow pat s.seq.row (beginRow s)) (fun t => .next (endRow t)) := by
  simp [rowAdvance, hd, posList, hp, flagIf]

/-- Settles O44: on the row tick the cell fetched on each channel is the given word, and a cell writes neither the song nor the
code map, so the words decode for the later channels as they do for the first. -/
theorem stepRunsTheRowsDecodedCells : Obligations.StepRunsTheRowsDecodedCells := by
  intro s w pat hl hacc hrow hdelay hpos hcell start
  have hunarmed : delayArmed s.seq = false := decide_eq_false (by omega)
  have hcells : tickCells (tickStart s) = andThen (runRow pat s.seq.row start) (fun t => .next (endRow t)) := calc
    tickCells (tickStart s) = rowAdvance ((tickStart s).setSeq { (tickStart s).seq with tick := 0 }) :=
      tickCells_of_rowTick (s := tickStart s) hrow
    _ = _ := rowAdvance_of_unarmed (s := (tickStart s).setSeq { (tickStart s).seq with tick := 0 }) hunarmed hpos
  rw [step_of_due hl hacc, hcells, andThen_assoc]
  refine congrArg (andThen · (fun t => finishTick (endRow t)))
    (runChannels_congr (s := start) (runRowCell_cellKeeps pat s.seq.row) fun t ht hc => ?_)
  have hsong : t.song = s.song := ht.stream.host.song
  have hcfg : t.cfg = s.cfg := ht.stream.host.cfg
  rw [runRowCell_of_cellAt (by rw [hsong]; exact hcell t.ch hc), hcfg]
  rfl

/-! ## The latched cells -/

/-- A row tick with an armed delay counts it down by 1. -/
theorem stallRow_eq (s : State) : stallRow s = s.setSeq { s.seq with delay := s.seq.delay - 1 } := by
  have e : BitVec.ofInt 8 (s.seq.delay.toInt - 1) = s.seq.delay - 1 := by
    rw [Int.sub_eq_add_neg, BitVec.ofInt_add, BitVec.ofInt_toInt, BitVec.sub_eq_add_neg]; rfl
  rw [stallRow, e]

theorem rowAdvance_of_armed {s : State} (h : 0 ≤ s.seq.delay.toInt) :
    rowAdvance s = runLatched (s.setSeq { s.seq with delay := s.seq.delay - 1 }) := by
  have harmed : delayArmed s.seq = true := decide_eq_true h
  rw [rowAdvance, if_pos harmed, stallRow_eq]

/-- On a tick that loads no row a reserved cell does nothing (30_encoding.md R160). -/
theorem runReserved_of_not_first (f : CellFields) {s : State} (h : s.seq.first = false) : runReserved f s = .next s := by
  simp [runReserved, runCell, loadCell, h]

/-- Settles O45: either way the tick runs the latched cells with S.first clear, which no cell sets, so a reserved latch does
nothing. -/
theorem stepRunsTheLatchedCells : Obligations.StepRunsTheLatchedCells := by
  intro s hl hacc hlatched inRow start
  have hcells : tickCells (tickStart s) = runLatched start := by
    by_cases hin : s.seq.tick.toNat + 1 < s.seq.speed.toNat
    · have hstart : start = (tickStart s).setSeq
          { (tickStart s).seq with tick := BitVec.ofNat 8 (s.seq.tick.toNat + 1) } := by
        simp [start, inRow, hin, tickStart]
      rw [tickCells_of_inRow (s := tickStart s) hin, hstart]
      rfl
    · have hstart : start = (tickStart s).setSeq { (tickStart s).seq with tick := 0, delay := s.seq.delay - 1 } := by
        simp [start, inRow, hin, tickStart]
      have hrow : s.seq.speed.toNat ≤ s.seq.tick.toNat + 1 := Nat.le_of_not_lt hin
      have harmed : 0 ≤ s.seq.delay.toInt := hlatched.resolve_left hin
      rw [tickCells_of_rowTick (s := tickStart s) hrow,
        rowAdvance_of_armed (s := (tickStart s).setSeq { (tickStart s).seq with tick := 0 }) harmed, hstart]
      rfl
  rw [step_of_due hl hacc, hcells]
  refine congrArg (andThen · finishTick)
    (runChannels_congr (s := start) (fun t => runDecoded_cellKeeps _ t) fun t ht _ => ?_)
  have hnot : t.seq.first = false := ht.place.first
  cases h : classify t.cfg.codes (latchedFields t) with
  | instr i => simp only [runLatchedCell, h, runDecoded]
  | reservedEffect f => simp only [runLatchedCell, h, runDecoded, runReserved_of_not_first f hnot]
  | truncated => simp only [runLatchedCell, h, runDecoded]

end Sys2Proof.Machine
end

section
/-! PROOFS. The row that an armed pattern delay stalls (O43): on its tick S.tick and S.first are 0, where no latched cell writes a
base period or a mixer channel. -/

namespace Sys2Proof.Machine

/-- t has every voice's base period and every mixer channel of s. -/
def SamePitch (s t : State) : Prop :=
  ∀ c, (t.voice c).period = (s.voice c).period ∧ t.mixer c = s.mixer c

theorem SamePitch.refl (s : State) : SamePitch s s := fun _ => ⟨rfl, rfl⟩

theorem SamePitch.trans {s t u : State} (h : SamePitch s t) (k : SamePitch t u) : SamePitch s u :=
  fun c => ⟨(k c).1.trans (h c).1, (k c).2.trans (h c).2⟩

theorem setVoice_samePitch (s : State) (c : Channel) {v : Voice} (h : v.period = (s.voice c).period) :
    SamePitch s (s.setVoice c v) := by
  refine fun d => ⟨?_, mixer_setVoice ..⟩
  rw [voice_setVoice_if]
  split
  · rename_i e; rw [h, e]
  · rfl

theorem setSynth_samePitch (s : State) (c : Channel) (y : Synth) : SamePitch s (s.setSynth c y) :=
  fun _ => ⟨by rw [voice_setSynth], mixer_setSynth ..⟩

theorem setSpeed_samePitch (arg : Byte) (s : State) : SamePitch s (setSpeed arg s) := by
  obtain ⟨speed, tempo, spt, e⟩ := setSpeed_eq arg s
  rw [e]
  exact .refl s

/-! ## Cells on the stalled tick -/

theorem passA_samePitch (f : State → State) {s : State} (h : s.seq.tick = 0) : SamePitch s (passA f s) := by
  rw [passA, if_pos h]
  exact .refl s

theorem onFirst_samePitch (f : State → State) {s : State} (h : s.seq.first = false) : SamePitch s (onFirst f s) := by
  rw [onFirst, h, if_neg Bool.false_ne_true]
  exact .refl s

theorem extraEffect_samePitch (c : Channel) (x y : Nibble) {s : State} (h : s.seq.first = false) :
    SamePitch s (extraEffect c x y s) := by
  unfold extraEffect
  split
  · exact .refl s
  · split
    · exact setVoice_samePitch s c rfl
    · split
      · exact onFirst_samePitch _ h
      · split
        · exact onFirst_samePitch _ h
        · exact .refl s

/-- On a tick with S.tick = 0 that loads no row, the tick-gated effects and the first-tick effects do nothing, and the others
write a volume, a speed, a synth register or a vibrato table at most. -/
theorem exec_eq_samePitch (i : Instr) {s : State} (hfirst : s.seq.first = false) (htick : s.seq.tick = 0) :
    ∃ f : State → State, exec i s = .next (f (afterLoad i s)) ∧ SamePitch s (f s) := by
  have still := SamePitch.refl s
  have gated (f : State → State) := passA_samePitch f htick
  have first (f : State → State) := onFirst_samePitch f hfirst
  cases i with
  | arp h x y => exact ⟨fun t => t, exec_arp h x y s, still⟩
  | slideUp h arg => exact ⟨_, exec_slideUp h arg s, gated _⟩
  | slideDown h arg => exact ⟨_, exec_slideDown h arg s, gated _⟩
  | tonePorta h arg => exact ⟨_, exec_tonePorta h arg s, gated _⟩
  | vibrato h x y => exact ⟨_, exec_vibrato h x y s, gated _⟩
  | tonePortaVslide h x y => exact ⟨_, exec_tonePortaVslide h x y s, gated _⟩
  | vibratoVslide h x y => exact ⟨_, exec_vibratoVslide h x y s, gated _⟩
  | sampleOffset h arg => exact ⟨fun t => t, exec_sampleOffset h arg s, still⟩
  | volumeSlide h x y => exact ⟨_, exec_volumeSlide h x y s, gated _⟩
  | positionJump h arg => exact ⟨_, exec_positionJump h arg s, first _⟩
  | setVolume h arg => exact ⟨_, exec_setVolume h arg s, setVoice_samePitch s _ rfl⟩
  | patternBreak h arg => exact ⟨_, exec_patternBreak h arg s, first _⟩
  | extra h x y => exact ⟨_, exec_extra h x y s, extraEffect_samePitch _ x y hfirst⟩
  | setSpeed h arg => exact ⟨_, exec_setSpeed h arg s, setSpeed_samePitch arg s⟩
  | newVolume h arg => exact ⟨_, exec_newVolume h arg s, first _⟩
  | waveSpeed h arg => exact ⟨_, exec_waveSpeed h arg s, setSynth_samePitch s _ _⟩
  | arpSpeed h arg => exact ⟨_, exec_arpSpeed h arg s, setVoice_samePitch s _ rfl⟩
  | fineSlideUp h arg => exact ⟨_, exec_fineSlideUp h arg s, first _⟩
  | fineSlideDown h arg => exact ⟨_, exec_fineSlideDown h arg s, first _⟩
  | trackVolume h arg => exact ⟨_, exec_trackVolume h arg s, setVoice_samePitch s _ rfl⟩
  | waveMode h arg => exact ⟨_, exec_waveMode h arg s, setSynth_samePitch s _ _⟩
  | extEvent h arg => exact ⟨fun t => t, exec_extEvent h arg s, still⟩
  | filter h y => exact ⟨fun t => t, exec_filter h y s, still⟩
  | vibWave h y => exact ⟨_, exec_vibWave h y s, setVoice_samePitch s _ rfl⟩
  | patternLoop h y => exact ⟨_, exec_patternLoop h y s, first _⟩
  | patternDelay h y => exact ⟨_, exec_patternDelay h y s, first _⟩

theorem exec_stalled (i : Instr) {s : State} (hfirst : s.seq.first = false) (htick : s.seq.tick = 0) :
    ∃ t, exec i s = .next t ∧ SamePitch s t := by
  obtain ⟨f, e, h⟩ := exec_eq_samePitch i hfirst htick
  rw [afterLoad_of_not_first i hfirst] at e
  exact ⟨f s, e, h⟩

theorem runDecoded_stalled (d : Decoded) {s : State} (hfirst : s.seq.first = false) (htick : s.seq.tick = 0) :
    ∃ t, runDecoded d s = .next t ∧ CellKeeps s t ∧ SamePitch s t := by
  obtain ⟨t, e, k⟩ := runDecoded_cellKeeps d s
  refine ⟨t, e, k, ?_⟩
  have hsame : ∃ u, runDecoded d s = .next u ∧ SamePitch s u := by
    cases d with
    | instr i => exact exec_stalled i hfirst htick
    | reservedEffect f => exact ⟨s, runReserved_of_not_first f hfirst, .refl s⟩
    | truncated => exact ⟨s, rfl, .refl s⟩
  obtain ⟨u, eu, hu⟩ := hsame
  obtain rfl : t = u := by simpa [e] using eu
  exact hu

/-- A cell leaves S.first and S.tick at 0 for the next one, so no cell of the stalled tick moves a pitch. -/
theorem runLatched_stalled {s : State} (hfirst : s.seq.first = false) (htick : s.seq.tick = 0) :
    ∃ t, runLatched s = .next t ∧ CellKeeps s t ∧ SamePitch s t := by
  refine runChannels_keeps (fun t => CellKeeps s t ∧ SamePitch s t) runLatchedCell ?_ ?_ s.channels s ⟨.refl s, .refl s⟩
  · rintro t ⟨kt, pt⟩
    obtain ⟨u, e, ku, pu⟩ := runDecoded_stalled (classify t.cfg.codes (latchedFields t)) (kt.place.first.trans hfirst)
      (kt.place.tick.trans htick)
    exact ⟨u, e, kt.trans ku, pt.trans pu⟩
  · rintro t c ⟨kt, pt⟩
    exact ⟨kt.setCh c, pt⟩

/-- Settles O43: the armed delay is counted down, and the latched cells of the stalled tick keep the place of the row and every
pitch. -/
theorem armedDelayStallsTheRow : Obligations.ArmedDelayStallsTheRow := by
  intro s harmed
  refine ⟨rowAdvance_of_armed harmed, fun hfirst htick => ?_⟩
  obtain ⟨t, e, k, p⟩ := runLatched_stalled (s := s.setSeq { s.seq with delay := s.seq.delay - 1 }) hfirst htick
  exact ⟨t, (rowAdvance_of_armed harmed).trans e, k.place.row, k.place.pos, k.place.curRow, p⟩

end Sys2Proof.Machine
end

section
/-! PROOFS. What a row load leaves in the banks of its channel: each part of it as a function on the banks, tied to the part by
one equation (spec/41_row_load.md R252 to R270). -/

namespace Sys2Proof.Machine

/-! ## The banks after a write of one of them -/

theorem chan_setVoice_self (s : State) (c : Channel) (v : Voice) : (s.setVoice c v).chan c = { s.chan c with v := v } :=
  chan_setChan_self s c _

theorem chan_setSynth_self (s : State) (c : Channel) (y : Synth) : (s.setSynth c y).chan c = { s.chan c with y := y } :=
  chan_setChan_self s c _

theorem chan_setMixer_self (s : State) (c : Channel) (m : Mixer) : (s.setMixer c m).chan c = { s.chan c with m := m } :=
  chan_setChan_self s c _

theorem voice_of_chan {s : State} {c : Channel} {k : Chan} (h : s.chan c = k) : s.voice c = k.v := congrArg Chan.v h

theorem synth_of_chan {s : State} {c : Channel} {k : Chan} (h : s.chan c = k) : s.synth c = k.y := congrArg Chan.y h

theorem mixer_of_chan {s : State} {c : Channel} {k : Chan} (h : s.chan c = k) : s.mixer c = k.m := congrArg Chan.m h

/-! ## The latch and the instrument -/

/-- RowLoad before its note: the latch, the marks of reserved codes, the cell's instrument (41_row_load.md R252, R253). -/
def loadHead (c : Channel) (f : CellFields) (s : State) : State :=
  resolveInstrument c f.inst (flagReserved f (latchEffect c f s))

theorem rowLoad_eq (c : Channel) (f : CellFields) (s : State) :
    rowLoad c f s = arpSetup c (loadNote c f (s.voice c).inst (loadHead c f s)) := rfl

theorem flagReserved_latchEffect_onlyChannel (c : Channel) (f : CellFields) (s : State) :
    OnlyChannel c s (flagReserved f (latchEffect c f s)) :=
  (latchEffect_onlyChannel c f s).trans (flagReserved_onlyChannel c f _)

theorem flagReserved_latchEffect_chan (c : Channel) (f : CellFields) (s : State) :
    (flagReserved f (latchEffect c f s)).chan c =
      { s.chan c with v := { s.voice c with fx := f.fx, arg := f.arg, arpidx := f.arpidx } } := by
  rw [flagReserved, flagIf_chan, flagIf_chan, latchEffect, chan_setVoice_self]

theorem loadHead_onlyChannel (c : Channel) (f : CellFields) (s : State) : OnlyChannel c s (loadHead c f s) :=
  (flagReserved_latchEffect_onlyChannel c f s).trans (resolveInstrument_onlyChannel c _ _)

theorem Song.instrumentAt_zero (g : Song) : g.instrumentAt 0 = none := if_pos rfl

/-- The cell's instrument as `resolvedVoice` reads it is the read of song memory (20_memory.md R108). -/
theorem cellInstrument_eq (g : Song) (n : BitVec 6) :
    (if n = 0 then none else g.instruments[n.toNat - 1]?) = g.instrumentAt n.toNat := by
  simp only [Song.instrumentAt, BitVec.toNat_eq, BitVec.ofNat_eq_ofNat, BitVec.toNat_ofNat, Nat.zero_mod]

theorem resolvedVoice_of_none {g : Song} {f : CellFields} (h : g.instrumentAt f.inst.toNat = none) (v : Voice) :
    resolvedVoice g f v = { v with fx := f.fx, arg := f.arg, arpidx := f.arpidx } := by
  rw [resolvedVoice, cellInstrument_eq, h]

theorem resolvedVoice_of_some {g : Song} {f : CellFields} {i : Instrument} (h : g.instrumentAt f.inst.toNat = some i)
    (v : Voice) :
    resolvedVoice g f v = { v with
      fx := f.fx, arg := f.arg, arpidx := f.arpidx
      inst := f.inst, volume := BitVec.ofNat 7 (min 64 i.volume.toNat), ft := i.finetune } := by
  rw [resolvedVoice, cellInstrument_eq, h]

/-- The banks before the note: a row load has written the voice only. -/
def headBanks (g : Song) (f : CellFields) (k : Chan) : Chan := { k with v := resolvedVoice g f k.v }

theorem loadHead_chan (c : Channel) (f : CellFields) (s : State) :
    (loadHead c f s).chan c = headBanks s.song f (s.chan c) := by
  have hlatch := flagReserved_latchEffect_chan c f s
  unfold loadHead resolveInstrument
  rw [(flagReserved_latchEffect_onlyChannel c f s).song, headBanks]
  split
  · rename_i hzero
    rw [hlatch, resolvedVoice_of_none (by rw [hzero]; exact s.song.instrumentAt_zero)]
    rfl
  · split
    · rename_i hnone
      rw [flag_chan, hlatch, resolvedVoice_of_none hnone]
      rfl
    · rename_i i hsome
      rw [chan_setVoice_self, voice_of_chan hlatch, hlatch, resolvedVoice_of_some hsome, clampVolume_nat]
      rfl

theorem loadHead_voice (c : Channel) (f : CellFields) (s : State) :
    (loadHead c f s).voice c = resolvedVoice s.song f (s.voice c) :=
  voice_of_chan (loadHead_chan c f s)

theorem resolvedVoice_latch (g : Song) (f : CellFields) (v : Voice) :
    (resolvedVoice g f v).fx = f.fx ∧ (resolvedVoice g f v).arg = f.arg ∧ (resolvedVoice g f v).arpidx = f.arpidx := by
  cases h : g.instrumentAt f.inst.toNat with
  | none => rw [resolvedVoice_of_none h]; exact ⟨rfl, rfl, rfl⟩
  | some i => rw [resolvedVoice_of_some h]; exact ⟨rfl, rfl, rfl⟩

theorem loadHead_inst (c : Channel) (f : CellFields) (s : State) :
    ((loadHead c f s).voice c).inst = resolvedNumber s.song f.inst (s.voice c).inst := by
  rw [loadHead, resolveInstrument_inst, (flagReserved_latchEffect_onlyChannel c f s).song,
    voice_of_chan (flagReserved_latchEffect_chan c f s)]

/-! ## The trigger -/

/-- The banks after Trigger's pitch part on a new note (41_row_load.md R252, R260). -/
def pitchBanks (cfg : Config) (note : BitVec 6) (k : Chan) : Chan :=
  { k with
    v := { k.v with
      note := note
      period := periodOf cfg k.v.ft note.toNat
      vibPos := 0
      vibSign := false
      arpPos := 0
      arpCtr := 0
      arpOut := periodOf cfg k.v.ft note.toNat }
    m := { k.m with phase := 0 } }

/-- The envelope a sample trigger leaves (41_row_load.md R261). -/
def sampleEnvelope (cfg : Config) (i : Instrument) (y : Synth) : Synth :=
  if cfg.adsrOnSamples then armEnvelope i y else { y with svol := 127, env := .done }

/-- The banks after the instrument part of Trigger, given what the read of the voice's instrument answers
(41_row_load.md R254, R260 to R262). -/
def instrumentBanks (cfg : Config) : Option Instrument → Chan → Chan
  | none, k => { k with m := { k.m with active := false } }
  | some i, k =>
    match i.body with
    | .sample b =>
      { k with
        v := { k.v with isSynth := false }
        m := sampleRegions cfg i.wave b k.m
        y := sampleEnvelope cfg i k.y }
    | .synth b =>
      { k with
        v := { k.v with isSynth := true }
        m := synthRegions i.wave b k.m
        y := armEnvelope i (synthRegisters i.wave b k.y) }

theorem instrumentBanks_of_sample (cfg : Config) {i : Instrument} {b : SampleBody} (h : i.body = .sample b) (k : Chan) :
    instrumentBanks cfg (some i) k =
      { k with
        v := { k.v with isSynth := false }
        m := sampleRegions cfg i.wave b k.m
        y := sampleEnvelope cfg i k.y } := by
  simp only [instrumentBanks, h]

theorem instrumentBanks_of_synth (cfg : Config) {i : Instrument} {b : SynthBody} (h : i.body = .synth b) (k : Chan) :
    instrumentBanks cfg (some i) k =
      { k with
        v := { k.v with isSynth := true }
        m := synthRegions i.wave b k.m
        y := armEnvelope i (synthRegisters i.wave b k.y) } := by
  simp only [instrumentBanks, h]

/-- Whatever the instrument, its part of the trigger writes the voice's kind only, and not the phase. -/
theorem instrumentBanks_keeps (cfg : Config) (o : Option Instrument) (k : Chan) :
    (∃ synth, (instrumentBanks cfg o k).v = { k.v with isSynth := synth }) ∧
      (instrumentBanks cfg o k).m.phase = k.m.phase := by
  cases o with
  | none => exact ⟨⟨k.v.isSynth, rfl⟩, rfl⟩
  | some i =>
    cases h : i.body with
    | sample b => rw [instrumentBanks_of_sample cfg h]; exact ⟨⟨false, rfl⟩, rfl⟩
    | synth b => rw [instrumentBanks_of_synth cfg h]; exact ⟨⟨true, rfl⟩, rfl⟩

/-- The banks at the end of a note that triggered: R259's target, R270's offset. -/
def finishNote (m : EffectCodeMap) (f : CellFields) (k : Chan) : Chan :=
  { k with
    v := { k.v with portaTarget := if isTonePorta m f.fx then k.v.period else k.v.portaTarget }
    m := if f.fx = m.sampleOffset ∧ k.v.isSynth = false then offsetRegion f.arg k.m else k.m }

theorem triggerPitch_chan (c : Channel) (note : BitVec 6) (s : State) :
    (triggerPitch c (s.setVoice c { s.voice c with note := note })).chan c = pitchBanks s.cfg note (s.chan c) := by
  simp only [triggerPitch, chan_setMixer_self, chan_setVoice_self, voice_setVoice, mixer_setVoice, setVoice_cfg]
  rfl

theorem triggerSample_chan (c : Channel) (i : Instrument) (b : SampleBody) (s : State) :
    (triggerSample c i b s).chan c =
      { s.chan c with m := sampleRegions s.cfg i.wave b (s.mixer c), y := sampleEnvelope s.cfg i (s.synth c) } := by
  simp only [triggerSample, sampleEnvelope]
  split <;> simp only [chan_setSynth_self, chan_setMixer_self, synth_setMixer]

theorem triggerSynth_chan (c : Channel) (i : Instrument) (b : SynthBody) (s : State) :
    (triggerSynth c i b s).chan c =
      { s.chan c with
        m := synthRegions i.wave b (s.mixer c), y := armEnvelope i (synthRegisters i.wave b (s.synth c)) } := by
  simp only [triggerSynth, chan_setMixer_self, chan_setSynth_self]

theorem triggerInstrument_chan (c : Channel) (s : State) :
    (triggerInstrument c s).chan c =
      instrumentBanks s.cfg (s.song.instrumentAt (s.voice c).inst.toNat) (s.chan c) := by
  unfold triggerInstrument
  split
  · rename_i hzero
    rw [hzero, show (0 : BitVec 6).toNat = 0 from rfl, s.song.instrumentAt_zero]
    exact chan_setMixer_self s c _
  · cases s.song.instrumentAt (s.voice c).inst.toNat with
    | none => exact chan_setMixer_self s c _
    | some i =>
      cases h : i.body with
      | sample b =>
        simp only [h, instrumentBanks_of_sample s.cfg h, triggerSample_chan, chan_setVoice_self, mixer_setVoice,
          synth_setVoice, setVoice_cfg]
        rfl
      | synth b =>
        simp only [h, instrumentBanks_of_synth s.cfg h, triggerSynth_chan, chan_setVoice_self, mixer_setVoice,
          synth_setVoice]
        rfl

theorem sampleOffset_chan (c : Channel) (arg : Byte) (s : State) :
    (sampleOffset c arg s).chan c =
      { s.chan c with m := if (s.voice c).isSynth = false then offsetRegion arg (s.mixer c) else s.mixer c } := by
  unfold sampleOffset
  cases (s.voice c).isSynth
  · exact chan_setMixer_self s c _
  · rfl

theorem trigger_chan (c : Channel) (note : BitVec 6) (s : State) :
    (trigger c (s.setVoice c { s.voice c with note := note })).chan c =
      instrumentBanks s.cfg (s.song.instrumentAt (s.voice c).inst.toNat) (pitchBanks s.cfg note (s.chan c)) := by
  have hpitch := triggerPitch_chan c note s
  have hinst : ((triggerPitch c (s.setVoice c { s.voice c with note := note })).voice c).inst = (s.voice c).inst := by
    rw [voice_of_chan hpitch]; rfl
  rw [trigger, triggerInstrument_chan, hinst, hpitch]
  rfl

/-- The banks after a note that triggers. -/
theorem triggerNote_chan (c : Channel) (f : CellFields) (s : State) :
    (triggerNote c f s).chan c = finishNote s.cfg.codes f
      (instrumentBanks s.cfg (s.song.instrumentAt (s.voice c).inst.toNat) (pitchBanks s.cfg f.note (s.chan c))) := by
  rw [← trigger_chan]
  simp only [triggerNote]
  generalize trigger c (s.setVoice c { s.voice c with note := f.note }) = t
  have htarget : (if isTonePorta s.cfg.codes f.fx then t.setVoice c { t.voice c with portaTarget := (t.voice c).period }
      else t).chan c = { t.chan c with v := { t.voice c with
        portaTarget := if isTonePorta s.cfg.codes f.fx then (t.voice c).period else (t.voice c).portaTarget } } := by
    split
    · exact chan_setVoice_self t c _
    · rfl
  generalize (if isTonePorta s.cfg.codes f.fx then t.setVoice c { t.voice c with portaTarget := (t.voice c).period }
      else t) = u at htarget ⊢
  have hkind : (u.voice c).isSynth = (t.voice c).isSynth := by rw [voice_of_chan htarget]
  have hmixer : u.mixer c = t.mixer c := (mixer_of_chan htarget).trans rfl
  by_cases hoffset : f.fx = s.cfg.codes.sampleOffset
  · rw [if_pos hoffset, sampleOffset_chan, htarget, hkind, hmixer, finishNote]
    simp only [hoffset, true_and]
    rfl
  · rw [if_neg hoffset, htarget, finishNote]
    simp only [hoffset, false_and, if_false]
    rfl

/-! ## The whole row load -/

/-- The note part of a row load leaves the latched effect (10_state.md R44). -/
theorem loadNote_latch (c : Channel) (f : CellFields) (prev : BitVec 6) (s : State) :
    ((loadNote c f prev s).voice c).fx = (s.voice c).fx ∧ ((loadNote c f prev s).voice c).arg = (s.voice c).arg ∧
      ((loadNote c f prev s).voice c).arpidx = (s.voice c).arpidx := by
  unfold loadNote
  split
  · exact ⟨rfl, rfl, rfl⟩
  · split
    · simp only [portaCapture, voice_setVoice, and_self]
    · obtain ⟨⟨synth, hv⟩, -⟩ := instrumentBanks_keeps s.cfg (s.song.instrumentAt (s.voice c).inst.toNat)
        (pitchBanks s.cfg f.note (s.chan c))
      rw [voice_of_chan (triggerNote_chan c f s), finishNote]
      simp only [hv]
      exact ⟨rfl, rfl, rfl⟩

/-- The offset list of a cell depends on its effect, its argument and its table index, and on the song and the parameters. -/
theorem cellOffsets_congr {s t : State} {f g : CellFields} (hcfg : t.cfg = s.cfg) (hsong : t.song = s.song)
    (hfx : g.fx = f.fx) (harg : g.arg = f.arg) (harpidx : g.arpidx = f.arpidx) : cellOffsets t g = cellOffsets s f := by
  simp only [cellOffsets, hcfg, hsong, hfx, harg, harpidx]

/-- The banks after ArpSetup (45_arpeggio.md R434). -/
def arpBanks (l : List Nibble) (k : Chan) : Chan := { k with v := withArpeggio l k.v }

/-- The banks after a row load: those its note leaves, with the cell's offset list in force. -/
theorem rowLoad_chan (c : Channel) (f : CellFields) (s : State) :
    (rowLoad c f s).chan c =
      arpBanks (cellOffsets s f) ((loadNote c f (s.voice c).inst (loadHead c f s)).chan c) := by
  have hkeep := (loadHead_onlyChannel c f s).trans (loadNote_onlyChannel c f (s.voice c).inst (loadHead c f s))
  obtain ⟨hfx, harg, harpidx⟩ := loadNote_latch c f (s.voice c).inst (loadHead c f s)
  obtain ⟨rfx, rarg, rarpidx⟩ := resolvedVoice_latch s.song f (s.voice c)
  rw [loadHead_voice] at hfx harg harpidx
  rw [rowLoad_eq, arpSetup_eq, chan_setVoice_self,
    cellOffsets_congr (f := f) hkeep.cfg hkeep.song (hfx.trans rfx) (harg.trans rarg) (harpidx.trans rarpidx)]
  rfl

/-- An offset list on a voice that a note has just triggered: its cursor, counter and output are the start's already
(41_row_load.md R260, 45_arpeggio.md R434). -/
theorem withArpeggio_of_triggered (l : List Nibble) {v : Voice} (hpos : v.arpPos = 0) (hctr : v.arpCtr = 0)
    (hout : v.arpOut = v.period) :
    withArpeggio l v = { v with arpList := if l = [] then v.arpList else arpListOf l, arpOn := decide (l ≠ []) } := by
  unfold withArpeggio
  by_cases hl : l = []
  · simp [hl]
  · simp [hl, hpos, hctr, hout]

/-- A note is a capture for a tone portamento on the voice's own instrument (41_row_load.md R252, R258). -/
theorem capturesPorta_iff (m : EffectCodeMap) (f : CellFields) (prev : BitVec 6) :
    capturesPorta m f prev = true ↔ isTonePorta m f.fx = true ∧ (f.inst = 0 ∨ f.inst = prev) ∧ prev ≠ 0 := by
  simp only [capturesPorta, Bool.and_eq_true, Bool.or_eq_true, decide_eq_true_eq, and_assoc]

/-- Every other note triggers. -/
theorem capturesPorta_eq_false_iff (m : EffectCodeMap) (f : CellFields) (prev : BitVec 6) :
    capturesPorta m f prev = false ↔ isTonePorta m f.fx = false ∨ (f.inst ≠ 0 ∧ f.inst ≠ prev) ∨ prev = 0 := by
  rw [← Bool.not_eq_true, capturesPorta_iff, ← Bool.not_eq_true]
  tauto

/-- The banks after the row load of a note that triggers, o being what the read of the voice's instrument answers. -/
theorem rowLoad_chan_of_trigger (c : Channel) {f : CellFields} {s : State} {o : Option Instrument} (hnote : f.note ≠ 0)
    (htrigger : isTonePorta s.cfg.codes f.fx = false ∨ (f.inst ≠ 0 ∧ f.inst ≠ (s.voice c).inst) ∨ (s.voice c).inst = 0)
    (hinst : s.song.instrumentAt (resolvedNumber s.song f.inst (s.voice c).inst).toNat = o) :
    (rowLoad c f s).chan c = arpBanks (cellOffsets s f) (finishNote s.cfg.codes f
      (instrumentBanks s.cfg o (pitchBanks s.cfg f.note (headBanks s.song f (s.chan c))))) := by
  have hhead := loadHead_onlyChannel c f s
  have hcapture : capturesPorta s.cfg.codes f (s.voice c).inst = false := (capturesPorta_eq_false_iff _ f _).2 htrigger
  have hload : loadNote c f (s.voice c).inst (loadHead c f s) = triggerNote c f (loadHead c f s) := by
    rw [loadNote, if_neg hnote, hhead.cfg, hcapture, if_neg Bool.false_ne_true]
  rw [rowLoad_chan, hload, triggerNote_chan, loadHead_inst, loadHead_chan, hhead.cfg, hhead.song, hinst]

/-! ## The mixer region under SAMPLE_OFFSET, and the registers an instrument gives -/

theorem clampSynthVolume_nat (n : Nat) : clampSynthVolume n = BitVec.ofNat 7 (min n 127) := by
  apply BitVec.eq_of_toNat_eq
  have := clampSynthVolume_toNat n
  rw [BitVec.toNat_ofNat]; omega

/-- The offset takes whole pages off the front of the region, at most all of it (41_row_load.md R270). -/
theorem offsetRegion_eq (arg : Byte) (m : Mixer) :
    offsetRegion arg m = { m with
      curOff := BitVec.ofNat 32 (m.curOff.toNat + min (256 * arg.toNat) m.curLen.toNat)
      curLen := BitVec.ofNat 32 (m.curLen.toNat - 256 * arg.toNat) } := by
  have hpage : pageOffset arg = 256 * arg.toNat := Nat.mul_comm ..
  unfold offsetRegion
  rw [hpage]
  split
  · rename_i hin
    rw [Nat.min_eq_left (Nat.le_of_lt hin)]
  · rename_i hout
    rw [Nat.min_eq_right (Nat.le_of_not_lt hout), Nat.sub_eq_zero_of_le (Nat.le_of_not_lt hout)]
    rfl

/-- No offset is an offset of 0 bytes. -/
theorem offsetRegion_if (p : Prop) [Decidable p] (arg : Byte) (m : Mixer) :
    (if p then offsetRegion arg m else m) = { m with
      curOff := BitVec.ofNat 32 (m.curOff.toNat + min (if p then 256 * arg.toNat else 0) m.curLen.toNat)
      curLen := BitVec.ofNat 32 (m.curLen.toNat - (if p then 256 * arg.toNat else 0)) } := by
  by_cases h : p
  · simp only [h, if_true, offsetRegion_eq]
  · simp [h]

/-- The mixer channel at the end of a note that triggered. -/
theorem finishNote_mixer (m : EffectCodeMap) (f : CellFields) (k : Chan) :
    (finishNote m f k).m = { k.m with
      curOff := BitVec.ofNat 32 (k.m.curOff.toNat +
        min (if f.fx = m.sampleOffset ∧ k.v.isSynth = false then 256 * f.arg.toNat else 0) k.m.curLen.toNat)
      curLen := BitVec.ofNat 32 (k.m.curLen.toNat -
        (if f.fx = m.sampleOffset ∧ k.v.isSynth = false then 256 * f.arg.toNat else 0)) } :=
  offsetRegion_if _ f.arg k.m

/-- The bytes of a number of words fit a region register. -/
theorem toNat_bytesOfWords (n : BitVec 16) : (BitVec.ofNat 32 (2 * n.toNat)).toNat = 2 * n.toNat := by
  rw [BitVec.toNat_ofNat]; omega

end Sys2Proof.Machine
end

section
/-! PROOFS. The row load with and without a note (O23 to O28). -/

namespace Sys2Proof.Machine

/-! ## Cells with no note -/

/-- The banks after the row load of a cell with no note. -/
theorem rowLoad_chan_of_no_note (c : Channel) {f : CellFields} (s : State) (hnote : f.note = 0) :
    (rowLoad c f s).chan c = arpBanks (cellOffsets s f) (headBanks s.song f (s.chan c)) := by
  have hload : loadNote c f (s.voice c).inst (loadHead c f s) = loadHead c f s := if_pos hnote
  rw [rowLoad_chan, hload, loadHead_chan]

/-- Settles O23. -/
theorem cellWithoutNoteLeavesTheSoundAlone : Obligations.CellWithoutNoteLeavesTheSoundAlone :=
  fun c f s hnote => ⟨rowLoad_chan_of_no_note c s hnote, rowLoad_onlyChannel c f s⟩

/-! ## Notes that trigger -/

/-- Settles O24: the banks of a trigger, with the instrument part of a sample. -/
theorem noteTriggersASampleInstrument : Obligations.NoteTriggersASampleInstrument := by
  intro c f s i b hnote htrigger hinst hbody t v p l len off
  have hchan := rowLoad_chan_of_trigger c hnote htrigger hinst
  rw [instrumentBanks_of_sample s.cfg hbody] at hchan
  obtain ⟨hscope, hdv⟩ := rowLoad_sameScope c f s
  refine ⟨?voice, ?mixer, ?synth, hscope, hdv, rowLoad_onlyChannel c f s⟩
  case voice => exact (voice_of_chan hchan).trans (withArpeggio_of_triggered _ rfl rfl rfl)
  case mixer =>
    refine (mixer_of_chan hchan).trans ((finishNote_mixer ..).trans ?_)
    simp only [sampleRegions, toNat_bytesOfWords, Bool.decide_or, and_true]
    rfl
  case synth =>
    refine (synth_of_chan hchan).trans ?_
    simp only [arpBanks, finishNote, sampleEnvelope, armEnvelope, clampSynthVolume_nat]
    rfl

/-- Settles O25: the banks of a trigger, with the instrument part of a synth, whose region SAMPLE_OFFSET leaves. -/
theorem noteTriggersASynthInstrument : Obligations.NoteTriggersASynthInstrument := by
  intro c f s i b hnote htrigger hinst hbody t v p l len
  have hchan := rowLoad_chan_of_trigger c hnote htrigger hinst
  rw [instrumentBanks_of_synth s.cfg hbody] at hchan
  obtain ⟨hscope, hdv⟩ := rowLoad_sameScope c f s
  refine ⟨?voice, ?mixer, ?synth, hscope, hdv, rowLoad_onlyChannel c f s⟩
  case voice => exact (voice_of_chan hchan).trans (withArpeggio_of_triggered _ rfl rfl rfl)
  case mixer =>
    have hlen : 0 < 2 * b.waveLen.toNat ↔ 0 < b.waveLen.toNat := by omega
    refine (mixer_of_chan hchan).trans ?_
    simp only [arpBanks, finishNote, Bool.true_eq_false, and_false, if_false, synthRegions, len, hlen]
    rfl
  case synth =>
    refine (synth_of_chan hchan).trans ?_
    simp only [arpBanks, finishNote, armEnvelope, synthRegisters, clampSynthVolume_nat, Synth.mk.injEq, true_and, and_true,
      len]
    generalize b.wlCtrl = ctrl
    revert ctrl
    decide

theorem resolvedNumber_eq_zero {g : Song} {inst prev : BitVec 6} (h : resolvedNumber g inst prev = 0) :
    prev = 0 ∧ g.instrumentAt inst.toNat = none := by
  unfold resolvedNumber at h
  split_ifs at h with hzero hle
  · exact ⟨h, by rw [hzero]; exact g.instrumentAt_zero⟩
  · exact absurd h hzero
  · have hne : inst.toNat ≠ 0 := by omega
    exact ⟨h, (instrumentAt_eq_none_iff g hne).2 (by omega)⟩

/-- A cell with assigned codes marks nothing (30_encoding.md R160, R161). -/
theorem flagReserved_of_assigned {f : CellFields} {s : State} (hfx : f.fx ∈ s.cfg.codes.codes)
    (hsub : f.fx = s.cfg.codes.extra → argX f.arg ∈ s.cfg.codes.subcodes) : flagReserved f s = s := by
  have hcode : s.cfg.codes.isReserved f.fx = false := by
    simpa [EffectCodeMap.isReserved] using hfx
  have hsubcode : (decide (f.fx = s.cfg.codes.extra) && s.cfg.codes.isReservedSub (argX f.arg)) = false := by
    simpa [EffectCodeMap.isReservedSub] using hsub
  rw [flagReserved, hcode, hsubcode]
  rfl

/-- A row load whose cell names no instrument, on a voice that has none, raises the marks of reserved codes only. -/
theorem rowLoad_cr_of_no_instrument (c : Channel) {f : CellFields} {s : State} (hinst : f.inst = 0)
    (hnumber : resolvedNumber s.song f.inst (s.voice c).inst = 0) : (rowLoad c f s).cr = (flagReserved f s).cr := by
  obtain ⟨b, hb, hcr⟩ := rowLoad_cr c f s
  rw [hnumber] at hb
  have hquiet : b = false := by
    cases b
    · rfl
    · exact absurd (hb rfl) (Nat.not_lt_zero _)
  have hnamed : decide (s.song.numInstr < f.inst.toNat) = false := by
    rw [hinst]; exact decide_eq_false (Nat.not_lt_zero _)
  rw [hcr, hquiet, hnamed]
  rfl

/-- Settles O26: the banks of a trigger with no instrument, and CR with the marks of reserved codes. -/
theorem noteWithoutInstrumentIsSilent : Obligations.NoteWithoutInstrumentIsSilent := by
  intro c f s hnote hnumber t v m p l len off
  obtain ⟨hown, hcell⟩ := resolvedNumber_eq_zero hnumber
  have hnone : s.song.instrumentAt (resolvedNumber s.song f.inst (s.voice c).inst).toNat = none := by
    rw [hnumber]; exact s.song.instrumentAt_zero
  have hchan := rowLoad_chan_of_trigger c hnote (.inr (.inr hown)) hnone
  rw [headBanks, resolvedVoice_of_none hcell] at hchan
  obtain ⟨hscope, hdv⟩ := rowLoad_sameScope c f s
  refine ⟨(voice_of_chan hchan).trans (withArpeggio_of_triggered _ rfl rfl rfl),
    (mixer_of_chan hchan).trans (finishNote_mixer ..), (synth_of_chan hchan).trans rfl, hscope, hdv, rowLoad_onlyChannel c f s,
    fun hinst => ?status⟩
  case status =>
    have hcr := rowLoad_cr_of_no_instrument c hinst hnumber
    refine ⟨?_, ?_, fun hfx hsub => ?_⟩
    · simp [t, flagged_of_cr hcr, flagged_flagReserved]
    · simp [t, flagged_of_cr hcr, flagged_flagReserved]
    · exact hcr.trans (congrArg State.cr (flagReserved_of_assigned hfx hsub))

/-! ## Tone portamento -/

/-- The banks after PortaCapture (41_row_load.md R258). -/
def captureBanks (cfg : Config) (note : BitVec 6) (k : Chan) : Chan :=
  { k with v := { k.v with portaTarget := periodOf cfg k.v.ft note.toNat, note := note } }

theorem portaCapture_chan (c : Channel) (note : BitVec 6) (s : State) :
    (portaCapture c note s).chan c = captureBanks s.cfg note (s.chan c) :=
  chan_setVoice_self s c _

/-- The banks after the row load of a captured note. -/
theorem rowLoad_chan_of_capture (c : Channel) {f : CellFields} {s : State} (hnote : f.note ≠ 0)
    (hcapture : capturesPorta s.cfg.codes f (s.voice c).inst = true) :
    (rowLoad c f s).chan c =
      arpBanks (cellOffsets s f) (captureBanks s.cfg f.note (headBanks s.song f (s.chan c))) := by
  have hcfg := (loadHead_onlyChannel c f s).cfg
  have hload : loadNote c f (s.voice c).inst (loadHead c f s) = portaCapture c f.note (loadHead c f s) := by
    rw [loadNote, if_neg hnote, hcfg, if_pos hcapture]
  rw [rowLoad_chan, hload, portaCapture_chan, loadHead_chan, hcfg]

/-- Settles O27: a note of a tone portamento is a capture or a trigger. -/
theorem tonePortamentoNoteCapturesOrRetriggers : Obligations.TonePortamentoNoteCapturesOrRetriggers := by
  intro c f s hnote hporta harp t own v p
  obtain ⟨hscope, hdv⟩ := rowLoad_sameScope c f s
  refine ⟨hscope, hdv, rowLoad_onlyChannel c f s, fun hsame hown => ?capture, fun hother => ?retrigger⟩
  case capture =>
    have hcapture : capturesPorta s.cfg.codes f own = true := (capturesPorta_iff _ f own).2 ⟨hporta, hsame, hown⟩
    have hchan := rowLoad_chan_of_capture c hnote hcapture
    rw [cellOffsets_off s f (.inl harp)] at hchan
    exact hchan
  case retrigger =>
    have hchan := rowLoad_chan_of_trigger c hnote (.inr hother) rfl
    obtain ⟨⟨synth, hv⟩, hphase⟩ := instrumentBanks_keeps s.cfg (s.song.instrumentAt (resolvedNumber s.song f.inst own).toNat)
      (pitchBanks s.cfg f.note (headBanks s.song f (s.chan c)))
    have hvoice := voice_of_chan hchan
    rw [cellOffsets_off s f (.inl harp), arpBanks, withArpeggio_nil, finishNote, hv, hporta] at hvoice
    have hmixer := (mixer_of_chan hchan).trans (finishNote_mixer ..)
    exact ⟨congrArg Voice.period hvoice, congrArg Voice.portaTarget hvoice, congrArg Voice.note hvoice,
      (congrArg Mixer.phase hmixer).trans hphase⟩

/-! ## SAMPLE_OFFSET -/

/-- Where each effect has a code of its own, SAMPLE_OFFSET's is neither ARP's nor a tone portamento's. -/
theorem sampleOffset_code_distinct {m : EffectCodeMap} (h : m.wf = true) :
    m.sampleOffset ≠ m.arp ∧ isTonePorta m m.sampleOffset = false := by
  have hnodup : m.codes.Nodup := by
    simp only [EffectCodeMap.wf, Bool.and_eq_true, decide_eq_true_eq] at h
    exact h.1
  simp only [EffectCodeMap.codes, List.nodup_cons, List.mem_cons, not_or] at hnodup
  simp only [isTonePorta, Bool.or_eq_false_iff, decide_eq_false_iff_not]
  grind

/-- Settles O28: the row load of a SAMPLE_OFFSET cell is a cell with no note, or a note that triggers; the region registers hold
its bytes without overflow. -/
theorem sampleOffsetMovesTheRegionStart : Obligations.SampleOffsetMovesTheRegionStart := by
  intro h arg s hwf hfirst
  obtain ⟨harp, hporta⟩ := sampleOffset_code_distinct hwf
  have hexec : exec (.sampleOffset h arg) s =
      .next (rowLoad s.ch ⟨h.arpidx, h.note, h.inst, s.cfg.codes.sampleOffset, arg⟩ s) := by
    rw [exec_sampleOffset, afterLoad, if_pos hfirst]
    rfl
  obtain ⟨hscope, hdv⟩ := rowLoad_sameScope s.ch ⟨h.arpidx, h.note, h.inst, s.cfg.codes.sampleOffset, arg⟩ s
  refine ⟨_, hexec, hscope, hdv, rowLoad_onlyChannel s.ch _ s, fun hnote => ?still, fun i b hnote hinst hbody => ?moved⟩
  case still => exact (mixer_of_chan (rowLoad_chan_of_no_note s.ch s hnote)).trans rfl
  case moved =>
    obtain ⟨hvoice, hmixer, hsynth, -⟩ := noteTriggersASampleInstrument s.ch
      ⟨h.arpidx, h.note, h.inst, s.cfg.codes.sampleOffset, arg⟩ s i b hnote (.inl hporta) hinst hbody
    rw [cellOffsets_off s _ (.inl harp)] at hvoice
    simp only [if_true] at hmixer
    intro v p m off b0 len
    have hstart := b.start.isLt
    have hlen := b.len.isLt
    have hloop := b.loopStart.isLt
    have hm : m = _ := hmixer
    refine ⟨?_, ?_, ?_, ?_, ?_, ?_, hsynth⟩
    · rw [hm, BitVec.toNat_ofNat]; split <;> omega
    · rw [hm, BitVec.toNat_ofNat]; split <;> omega
    · rw [hm, BitVec.toNat_ofNat]; omega
    · rw [hm, toNat_bytesOfWords]
    · rw [hm]
    · simpa [hporta] using hvoice

end Sys2Proof.Machine
end

section
/-! PROOFS. The tick-gated effects (O7 to O12): each handler as one write of the running channel's voice, under the tests of
42_tick_gated_effects.md R300 (the tick is not 0) and R301 (the voice has a pitch). -/

namespace Sys2Proof.Machine

/-! ## Clamped sums and differences of naturals -/

theorem clampPeriod_add_nat (p n : Nat) : clampPeriod ((p : Int) + n) = BitVec.ofNat 16 (max 103 (min 65535 (p + n))) := by
  apply BitVec.eq_of_toNat_eq
  have := clampPeriod_toNat ((p : Int) + n)
  rw [BitVec.toNat_ofNat]; omega

/-- A period that goes down cannot pass the ceiling of its register. -/
theorem clampPeriod_sub_nat (p : BitVec 16) (n : Nat) :
    clampPeriod ((p.toNat : Int) + -(n : Int)) = BitVec.ofNat 16 (max 103 (p.toNat - n)) := by
  apply BitVec.eq_of_toNat_eq
  have := clampPeriod_toNat ((p.toNat : Int) + -(n : Int))
  rw [BitVec.toNat_ofNat]; omega

/-- The floor 0 of the volume is the truncated difference of naturals. -/
theorem clampVolume_sub_nat (m n : Nat) : clampVolume ((m : Int) - n) = BitVec.ofNat 7 (min 64 (m - n)) := by
  apply BitVec.eq_of_toNat_eq
  have := clampVolume_toNat ((m : Int) - n)
  rw [BitVec.toNat_ofNat]; omega

/-! ## The tests before a handler -/

/-- The test of R300 before the test of R301. -/
theorem passA_withPitch (c : Channel) (f : State → State) (s : State) :
    passA (withPitch c f) s = if s.seq.tick = 0 ∨ (s.voice c).period = 0 then s else f s :=
  (ite_or ..).symm

theorem passA_slidePeriod (c : Channel) (d : Int) (s : State) :
    passA (slidePeriod c d) s = if s.seq.tick = 0 ∨ (s.voice c).period = 0 then s
      else s.setVoice c { s.voice c with period := clampPeriod (((s.voice c).period.toNat : Int) + d) } :=
  passA_withPitch c (fun t => t.setVoice c { t.voice c with period := clampPeriod (((t.voice c).period.toNat : Int) + d) }) s

theorem passA_tonePorta (c : Channel) (arg : Byte) (s : State) :
    passA (tonePorta c arg) s = if s.seq.tick = 0 ∨ (s.voice c).period = 0 then s
      else tonePortaStep c (if arg ≠ 0 then s.setVoice c { s.voice c with portaSpeed := arg } else s) :=
  passA_withPitch c (fun t => tonePortaStep c (if arg ≠ 0 then t.setVoice c { t.voice c with portaSpeed := arg } else t)) s

theorem passA_tonePortaVslide (c : Channel) (x y : Nibble) (s : State) :
    passA (tonePortaVslide c x y) s = if s.seq.tick = 0 ∨ (s.voice c).period = 0 then s
      else volSlide c x y (tonePortaStep c s) :=
  passA_withPitch c (fun t => volSlide c x y (tonePortaStep c t)) s

/-! ## The handlers -/

/-- A volume slide on naturals: up by x, or down by y where x is 0 (R304, R305). -/
theorem volSlide_eq_nat (c : Channel) (x y : Nibble) (s : State) :
    volSlide c x y s = s.setVoice c { s.voice c with
      volume := if x = 0 then BitVec.ofNat 7 (min 64 ((s.voice c).volume.toNat - y.toNat))
        else BitVec.ofNat 7 (min 64 ((s.voice c).volume.toNat + x.toNat)) } := by
  rw [volSlide_eq]
  split
  · rw [clampVolume_sub_nat]
  · rw [← Nat.cast_add, clampVolume_nat]

/-- A portamento with a new speed, which an argument of 0 leaves as it was, is one write of the voice (R315). -/
theorem tonePortaStep_speed (c : Channel) (arg : Byte) (s : State) :
    tonePortaStep c (if arg ≠ 0 then s.setVoice c { s.voice c with portaSpeed := arg } else s) =
      s.setVoice c { s.voice c with
        portaSpeed := if arg = 0 then (s.voice c).portaSpeed else arg
        period := portaStepPeriod { s.voice c with portaSpeed := if arg = 0 then (s.voice c).portaSpeed else arg } } := by
  by_cases harg : arg = 0
  · simp only [harg, ne_eq, not_true_eq_false, if_false, if_true]
    rfl
  · simp only [harg, ne_eq, not_false_eq_true, if_true, if_false, tonePortaStep, voice_setVoice, setVoice_setVoice]

/-- A portamento step and then a volume slide is one write of the voice (R325). -/
theorem volSlide_tonePortaStep (c : Channel) (x y : Nibble) (s : State) :
    volSlide c x y (tonePortaStep c s) = s.setVoice c { s.voice c with
      period := portaStepPeriod (s.voice c)
      volume := if x = 0 then BitVec.ofNat 7 (min 64 ((s.voice c).volume.toNat - y.toNat))
        else BitVec.ofNat 7 (min 64 ((s.voice c).volume.toNat + x.toNat)) } := by
  simp only [volSlide_eq_nat, tonePortaStep, voice_setVoice, setVoice_setVoice]

/-- Replacing the depth bits is masking them out and setting them, bit by bit (R320). -/
theorem withVibDepth_eq (amp : Byte) (y : Nibble) : withVibDepth amp y = (amp &&& 0xF0#8) ||| y.setWidth 8 := by
  refine BitVec.eq_of_getLsbD_eq fun i hi => ?_
  refine BitVec.getLsbD_append.trans ?_
  interval_cases i <;> simp

/-! ## The portamento step -/

/-- With a pitch and a target, the step is the speed, cut off at the target (R306). -/
theorem portaStepPeriod_toInt {v : Voice} (hp : v.period ≠ 0) (ht : v.portaTarget ≠ 0) :
    ((portaStepPeriod v).toNat : Int) =
      if v.period.toNat < v.portaTarget.toNat then min ((v.period.toNat : Int) + v.portaSpeed.toNat) v.portaTarget.toNat
      else max ((v.period.toNat : Int) - v.portaSpeed.toNat) v.portaTarget.toNat := by
  have hperiod := v.period.isLt
  have htarget := v.portaTarget.isLt
  simp only [portaStepPeriod, hp, ht, or_self, if_false, Nat.cast_lt]
  split_ifs with hup hdown
  · rw [BitVec.toNat_ofInt]; omega
  · rw [BitVec.toNat_ofInt]; omega
  · omega

/-- Settles O8: the step is the speed cut off at the target, on either side of it. -/
theorem portamentoStepNeverPassesItsTarget : Obligations.PortamentoStepNeverPassesItsTarget := by
  refine fun v => ⟨fun hstill => if_pos hstill, fun hp ht => ?moves⟩
  case moves =>
    intro p t q
    have hq : q = _ := portaStepPeriod_toInt hp ht
    simp only [p, t]
    split_ifs at hq <;> exact ⟨by omega, by omega, by omega⟩

/-! ## The vibrato step -/

/-- The delta with the table read as lists and the shift as a division (R307). -/
theorem vibDelta_eq (cfg : Config) (sel : BitVec 2) (pos : BitVec 5) (depth : Nat) :
    vibDelta cfg sel pos depth =
      ((cfg.vibTable.toList.getD (min sel.toNat 2) (Vector.replicate 32 0)).toList.getD pos.toNat 0).toNat * depth / 128 := by
  have hsel : min sel.toNat 2 < cfg.vibTable.toList.length := by rw [Vector.length_toList]; omega
  have hpos : ∀ row : Vector Byte 32, pos.toNat < row.toList.length := fun row => by
    rw [Vector.length_toList]; exact pos.isLt
  rw [vibDelta, Nat.shiftRight_eq_div_pow, List.getD_eq_getElem _ _ hsel, List.getD_eq_getElem _ _ (hpos _),
    Vector.getElem_toList, Vector.getElem_toList]

/-- The greatest delta is of an entry 255 at depth 15: 3825 div 128. -/
theorem vibDelta_le (cfg : Config) (sel : BitVec 2) (pos : BitVec 5) (depth : Nibble) :
    vibDelta cfg sel pos depth.toNat ≤ 29 := by
  have hentry := ((cfg.vibTable[min sel.toNat 2]'(by omega))[pos.toNat]'pos.isLt).isLt
  have hprod := Nat.mul_le_mul (Nat.le_of_lt_succ hentry) (Nat.le_of_lt_succ depth.isLt)
  rw [vibDelta, Nat.shiftRight_eq_div_pow]
  omega

/-- Settles O10: the delta in the form of lists and a division, the wrap at 32, and the bound of the delta. -/
theorem vibratoStepReadsTheTableAndAdvances : Obligations.VibratoStepReadsTheTableAndAdvances := by
  intro c s v sel entry delta p
  have hdelta : delta = (vibDelta s.cfg (vibSelect v.vibAmp) v.vibPos (vibDepth v.vibAmp).toNat : Int) :=
    congrArg Nat.cast (vibDelta_eq ..).symm
  have hpos : BitVec.ofNat 5 (p % 32) = BitVec.ofNat 5 p :=
    BitVec.eq_of_toNat_eq (by rw [BitVec.toNat_ofNat, BitVec.toNat_ofNat]; omega)
  have hsign : (if 32 ≤ p then !v.vibSign else v.vibSign) = if p < 32 then v.vibSign else !v.vibSign := by
    simp only [← Nat.not_lt, ite_not]
  refine ⟨?step, by omega, ?bound⟩
  case step => rw [hdelta, ← hpos, ← hsign]; rfl
  case bound =>
    rw [hdelta]
    exact_mod_cast vibDelta_le s.cfg (vibSelect v.vibAmp) v.vibPos (vibDepth v.vibAmp)

/-! ## The meanings -/

/-- Settles O7: SLIDE_UP lowers the period, SLIDE_DOWN raises it. -/
theorem slidesMoveThePeriodOnNonzeroTicks : Obligations.SlidesMoveThePeriodOnNonzeroTicks := by
  refine fun h arg s => ⟨?up, ?down⟩
  case up =>
    intro t v
    rw [exec_slideUp, passA_slidePeriod, clampPeriod_sub_nat]
  case down =>
    intro t v
    rw [exec_slideDown, passA_slidePeriod, clampPeriod_add_nat]

/-- Settles O9: under both tests each handler is one write of the voice. -/
theorem tonePortamentoStepsAndSlides : Obligations.TonePortamentoStepsAndSlides := by
  refine fun h arg x y s => ⟨?porta, ?slide⟩
  case porta =>
    intro t v
    rw [exec_tonePorta, passA_tonePorta, tonePortaStep_speed]
  case slide =>
    intro t v
    rw [exec_tonePortaVslide, passA_tonePortaVslide, volSlide_tonePortaStep]

/-- Settles O11: under the test of the tick alone, the step follows the stored nibbles, or comes before the volume slide. -/
theorem vibratoStoresItsNibblesAndSteps : Obligations.VibratoStoresItsNibblesAndSteps := by
  refine fun h x y s => ⟨?vibrato, ?slide⟩
  case vibrato =>
    intro t v
    rw [exec_vibrato, passA, vibrato]
    simp only [ne_eq, ite_not, withVibDepth_eq]
    rfl
  case slide =>
    intro t u v
    rw [exec_vibratoVslide, passA, volSlide_eq_nat]

/-- Settles O12: under the test of the tick, the slide on naturals. -/
theorem volumeSlideMovesTheVolume : Obligations.VolumeSlideMovesTheVolume := by
  intro h x y s t v
  rw [exec_volumeSlide, passA, volSlide_eq_nat]

end Sys2Proof.Machine
end

section
/-! PROOFS. The every-tick effects (O13 to O17), and which effects write the sequencer (O49): each handler as one write of S or of
a bank of the running channel, some under the first-tick test of 43_every_tick_effects.md R351. -/

namespace Sys2Proof.Machine

/-! ## The first tick of the row -/

/-- A row load does not write S, so the test of R351 can be read before it. -/
theorem onFirst_afterLoad (f : State → State) (i : Instr) (s : State) :
    onFirst f (afterLoad i s) = if s.seq.first then f (afterLoad i s) else afterLoad i s := by
  rw [onFirst, afterLoad_seq]

/-- The test of R351 before the test of R301. -/
theorem onFirst_slidePeriod (c : Channel) (d : Int) (s : State) :
    onFirst (slidePeriod c d) s = if s.seq.first = false ∨ (s.voice c).period = 0 then s
      else s.setVoice c { s.voice c with period := clampPeriod (((s.voice c).period.toNat : Int) + d) } := by
  cases hfirst : s.seq.first with
  | false => simp [onFirst, hfirst]
  | true => simp [onFirst, hfirst, slidePeriod, withPitch]

/-! ## The arguments -/

/-- The arpeggio speed of an argument is at least 1 (R368). -/
theorem arpSpeedOf_eq (arg : Byte) : (if arg = 0 then 1 else arg) = BitVec.ofNat 8 (max arg.toNat 1) := by
  apply BitVec.eq_of_toNat_eq
  rw [BitVec.toNat_ofNat]
  split
  · rename_i hzero
    simp [hzero]
  · bv_omega

/-- The mode field of a WAVE_MODE argument is its remainder by 4 (R376). -/
theorem modeField_eq_iff (arg : Byte) (m : BitVec 2) : arg.extractLsb' 0 2 = m ↔ arg.toNat % 4 = m.toNat := by
  rw [← BitVec.toNat_inj, BitVec.extractLsb'_toNat, Nat.shiftRight_zero]

/-- The two ranges of a SET_SPEED argument that write S: 1 to 32 and 33 to 200 (R358). -/
theorem setSpeed_eq_range (arg : Byte) (s : State) :
    setSpeed arg s =
      if 1 ≤ arg.toNat ∧ arg.toNat ≤ 32 then s.setSeq { s.seq with speed := arg }
      else if 33 ≤ arg.toNat ∧ arg.toNat ≤ 200 ∧ s.seq.tempo ≠ arg then
        s.setSeq { s.seq with tempo := arg, spt := samplesPerTick s.cr.sampleRate arg }
      else s := by
  by_cases hzero : arg = 0
  · subst hzero
    rfl
  have hpos : 1 ≤ arg.toNat := by bv_omega
  rw [setSpeed, if_neg hzero]
  by_cases hspeed : arg.toNat ≤ 32
  · rw [if_pos hspeed, if_pos ⟨hpos, hspeed⟩]
  have htempo : 33 ≤ arg.toNat := Nat.lt_of_not_le hspeed
  simp only [hspeed, and_false, if_false, htempo, true_and, ite_and]
  rfl

/-! ## The statements on the first tick and on every tick -/

/-- Settles O13: both are first-tick handlers on the state after the row load. -/
theorem jumpAndBreakArmOnTheFirstTick : Obligations.JumpAndBreakArmOnTheFirstTick := by
  refine fun h arg s => ⟨?jump, ?brk⟩
  case jump => rw [exec_positionJump, onFirst_afterLoad]; rfl
  case brk => rw [exec_patternBreak, onFirst_afterLoad]; rfl

/-- Settles O14: the tick length is that of the new tempo (R201). -/
theorem setSpeedSetsSpeedOrTempo : Obligations.SetSpeedSetsSpeedOrTempo := by
  intro h arg s t
  rw [exec_setSpeed, setSpeed_eq_range]
  rfl

/-- Settles O15: each handler writes the clamp of a natural number, and NEW_VOLUME on the first tick only. -/
theorem volumeWritesAreClamped : Obligations.VolumeWritesAreClamped := by
  refine fun h arg s => ⟨?volume, ?track, ?synth⟩
  case volume => intro t; rw [exec_setVolume, setVolume, clampVolume_nat]
  case track => intro t; rw [exec_trackVolume, trackVolume, clampVolume_nat]
  case synth => intro t; rw [exec_newVolume, onFirst_afterLoad, newVolume, clampSynthVolume_nat, Nat.min_comm]

/-- Settles O16: each handler is one write, of a speed of at least 1 for ARP_SPEED and of the mode field for WAVE_MODE. -/
theorem synthAndArpeggioParametersAreWritten : Obligations.SynthAndArpeggioParametersAreWritten := by
  refine fun h arg s => ⟨exec_waveSpeed h arg s, ?speed, ?mode⟩
  case speed => intro t; rw [exec_arpSpeed, arpSpeed, arpSpeedOf_eq]
  case mode =>
    intro t y
    refine (exec_waveMode h arg s).trans (congrArg (fun m => Host.Outcome.next
      (t.setSynth s.ch { y with wmode := m })) ?_)
    rw [waveModeOf]
    simp only [modeField_eq_iff]
    rcases arg.toNat % 4 with _ | _ | _ | m
    · rfl
    · rfl
    · rfl
    · simp [t, y]

/-- Settles O17: FINE_SLIDE_UP lowers the period, FINE_SLIDE_DOWN raises it. -/
theorem fineSlidesMoveThePeriodOncePerRow : Obligations.FineSlidesMoveThePeriodOncePerRow := by
  refine fun h arg s => ⟨?up, ?down⟩
  case up =>
    intro t v
    rw [exec_fineSlideUp, onFirst_slidePeriod, clampPeriod_sub_nat, afterLoad_seq]
  case down =>
    intro t v
    rw [exec_fineSlideDown, onFirst_slidePeriod, clampPeriod_add_nat, afterLoad_seq]

/-! ## Which effects write the sequencer -/

/-- An instruction whose handler writes the banks of one channel keeps S. -/
theorem exec_keepsSeq {i : Instr} {c : Channel} {f : State → State} {s t : State}
    (hexec : exec i s = .next (f (afterLoad i s))) (hf : ∀ u, OnlyChannel c u (f u)) (ht : exec i s = .next t) :
    t.seq = s.seq := by
  obtain rfl : f (afterLoad i s) = t := Host.Outcome.next.inj (hexec.symm.trans ht)
  rw [(hf _).seq, afterLoad_seq]

/-- EXTRA with any sub-code but those of PATTERN_LOOP and PATTERN_DELAY writes the running channel at most (R400). -/
theorem extraEffect_onlyChannel {c : Channel} {x y : Nibble} {s : State} (hloop : x ≠ s.cfg.codes.patternLoop)
    (hdelay : x ≠ s.cfg.codes.patternDelay) : OnlyChannel c s (extraEffect c x y s) := by
  rw [extraEffect, if_neg hloop, if_neg hdelay]
  split
  · exact .refl c s
  · split
    · exact setVoice_onlyChannel c s _
    · exact .refl c s

theorem exec_extra_keepsSeq {h : Head} {x y : Nibble} {s t : State} (hloop : x ≠ s.cfg.codes.patternLoop)
    (hdelay : x ≠ s.cfg.codes.patternDelay) (ht : exec (.extra h x y) s = .next t) : t.seq = s.seq := by
  obtain rfl := Host.Outcome.next.inj ((exec_extra h x y s).symm.trans ht)
  have hkeep : OnlyChannel s.ch (afterLoad (.extra h x y) s) _ :=
    extraEffect_onlyChannel (y := y) (by rwa [afterLoad_cfg]) (by rwa [afterLoad_cfg])
  rw [hkeep.seq, afterLoad_seq]

/-- Settles O49: the handler of every other effect writes the banks of the running channel at most. -/
theorem onlyFlowEffectsWriteTheSequencer : Obligations.OnlyFlowEffectsWriteTheSequencer := by
  intro i s t ht hne
  have slide (d : Int) := slidePeriod_onlyChannel s.ch d
  have volume (x y : Nibble) := volSlide_onlyChannel s.ch x y
  have voice (g : State → Voice) (u : State) := setVoice_onlyChannel s.ch u (g u)
  have synth (g : State → Synth) (u : State) := setSynth_onlyChannel s.ch u (g u)
  have banks {f : State → State} (e : exec i s = .next (f (afterLoad i s))) (hf : ∀ u, OnlyChannel s.ch u (f u)) : False :=
    hne (exec_keepsSeq e hf ht)
  have inert (e : exec i s = .next (afterLoad i s)) : False := banks (f := fun u => u) e (.refl s.ch)
  cases i with
  | positionJump | patternBreak | setSpeed | patternLoop | patternDelay => trivial
  | extra h x y =>
    by_contra hother
    obtain ⟨hloop, hdelay⟩ := not_or.1 hother
    exact hne (exec_extra_keepsSeq hloop hdelay ht)
  | arp h x y => exact inert (exec_arp h x y s)
  | sampleOffset h arg => exact inert (exec_sampleOffset h arg s)
  | extEvent h arg => exact inert (exec_extEvent h arg s)
  | filter h y => exact inert (exec_filter h y s)
  | slideUp h arg => exact banks (exec_slideUp h arg s) (passA_onlyChannel (slide _))
  | slideDown h arg => exact banks (exec_slideDown h arg s) (passA_onlyChannel (slide _))
  | tonePorta h arg => exact banks (exec_tonePorta h arg s) (passA_onlyChannel (tonePorta_onlyChannel _ _))
  | vibrato h x y => exact banks (exec_vibrato h x y s) (passA_onlyChannel (vibrato_onlyChannel _ _ _))
  | tonePortaVslide h x y =>
    exact banks (exec_tonePortaVslide h x y s) (passA_onlyChannel (tonePortaVslide_onlyChannel _ _ _))
  | vibratoVslide h x y =>
    exact banks (exec_vibratoVslide h x y s)
      (passA_onlyChannel (fun u => (vibratoStep_onlyChannel _ u).trans (volume x y _)))
  | volumeSlide h x y => exact banks (exec_volumeSlide h x y s) (passA_onlyChannel (volume x y))
  | fineSlideUp h arg => exact banks (exec_fineSlideUp h arg s) (onFirst_onlyChannel (slide _))
  | fineSlideDown h arg => exact banks (exec_fineSlideDown h arg s) (onFirst_onlyChannel (slide _))
  | setVolume h arg => exact banks (exec_setVolume h arg s) (voice _)
  | trackVolume h arg => exact banks (exec_trackVolume h arg s) (voice _)
  | arpSpeed h arg => exact banks (exec_arpSpeed h arg s) (voice _)
  | vibWave h y => exact banks (exec_vibWave h y s) (voice _)
  | newVolume h arg => exact banks (exec_newVolume h arg s) (onFirst_onlyChannel (synth _))
  | waveSpeed h arg => exact banks (exec_waveSpeed h arg s) (synth _)
  | waveMode h arg => exact banks (exec_waveMode h arg s) (synth _)

end Sys2Proof.Machine
end

section
/-! PROOFS. The Extra sub-effects (O19 to O21): EXTRA's dispatch on the sub-code, and the handlers of VIB_WAVE, PATTERN_LOOP and
PATTERN_DELAY as one write of the voice or of S. -/

namespace Sys2Proof.Machine

/-! ## The handlers -/

/-- Replacing the table-select bits is masking them out and setting them, bit by bit (R404). -/
theorem withVibSelect_eq (amp : Byte) (y : Nibble) :
    withVibSelect amp (y.extractLsb' 0 2) = (amp &&& 0xCF#8) ||| ((y.setWidth 8 &&& 0x03#8) <<< 4) := by
  refine BitVec.eq_of_getLsbD_eq fun i hi => ?_
  rw [withVibSelect, BitVec.getLsbD_append, BitVec.getLsbD_append]
  interval_cases i <;> simp

/-- PATTERN_LOOP's cases on the loop counter read as a number (R406). -/
theorem patternLoop_eq_nat (y : Nibble) (s : State) :
    patternLoop y s =
      if y = 0 then s.setSeq { s.seq with loopRow := s.seq.curRow }
      else if s.seq.loopCnt.toNat = 0xF0 then s
      else if s.seq.loopCnt.toNat = 0 then s.setSeq { s.seq with loopCnt := BitVec.ofNat 8 y.toNat, loopFlag := true }
      else if s.seq.loopCnt.toNat = 1 then s.setSeq { s.seq with loopCnt := 0xF0#8 }
      else s.setSeq { s.seq with loopCnt := BitVec.ofNat 8 (s.seq.loopCnt.toNat - 1), loopFlag := true } := by
  have hcount (n : Byte) : (s.seq.loopCnt = n) = (s.seq.loopCnt.toNat = n.toNat) := propext BitVec.toNat_inj.symm
  have hdown (hne : s.seq.loopCnt.toNat ≠ 0) : s.seq.loopCnt - 1 = BitVec.ofNat 8 (s.seq.loopCnt.toNat - 1) := by bv_omega
  simp only [patternLoop, loopCounter, apply_ite s.setSeq, BitVec.ofNat_toNat]
  refine ite_congr rfl (fun _ => rfl) fun _ => ?counter
  refine ite_congr (hcount loopExhausted) (fun _ => rfl) fun _ => ?running
  refine ite_congr (hcount 0) (fun _ => rfl) fun hne => ?counting
  refine ite_congr (hcount 1) (fun _ => rfl) fun _ => ?down
  rw [hdown hne]

/-- PATTERN_DELAY under the test of R351; y - 1 is a natural number where y is not 0 (R410). -/
theorem onFirst_patternDelay (y : Nibble) (s : State) :
    onFirst (patternDelay y) s = if s.seq.first = false ∨ y = 0 then s
      else s.setSeq { s.seq with delay := BitVec.ofNat 8 (y.toNat - 1) } := by
  cases hfirst : s.seq.first with
  | false => simp [onFirst, hfirst]
  | true =>
    by_cases hy : y = 0
    · simp [onFirst, hfirst, patternDelay, hy]
    · have hpos : 1 ≤ y.toNat := by bv_omega
      simp [onFirst, hfirst, patternDelay, ← Nat.cast_pred hpos]

/-! ## The statements -/

/-- Settles O21: both are first-tick handlers on the state after the row load. -/
theorem patternLoopCountsAndPatternDelayArms : Obligations.PatternLoopCountsAndPatternDelayArms := by
  refine fun h y s => ⟨?loop, ?delay⟩
  case loop =>
    intro t q
    rw [exec_patternLoop, onFirst_afterLoad, patternLoop_eq_nat]
    cases s.seq.first <;> rfl
  case delay =>
    intro t
    rw [exec_patternDelay, onFirst_patternDelay, afterLoad_seq]

/-- Settles O19: where x is a sub-effect's sub-code, the EXTRA cell has the fields of that sub-effect's cell, so the same row load,
and its handler is that sub-effect's. -/
theorem extraRunsItsSubEffectOrNothing : Obligations.ExtraRunsItsSubEffectOrNothing := by
  intro h x y s _
  rw [exec_extra, extraEffect, afterLoad_cfg]
  simp only [apply_ite Host.Outcome.next]
  refine ite_congr rfl ?filter fun _ => ite_congr rfl ?vibWave fun _ =>
    ite_congr rfl ?patternLoop fun _ => ite_congr rfl ?patternDelay fun _ => rfl
  case filter => rintro rfl; exact (exec_filter h y s).symm
  case vibWave => rintro rfl; exact (exec_vibWave h y s).symm
  case patternLoop => rintro rfl; exact (exec_patternLoop h y s).symm
  case patternDelay => rintro rfl; exact (exec_patternDelay h y s).symm

/-- Settles O20: the handler is one write of the amplitude byte, and no tick is tested. -/
theorem vibWaveReplacesTheTableBits : Obligations.VibWaveReplacesTheTableBits := by
  intro h y s t v
  rw [exec_vibWave, vibWave, withVibSelect_eq]

end Sys2Proof.Machine
end

section
/-! PROOFS. The arpeggio and the output period (O6, O29 to O32): the table look-up of PeriodOf, the row load of an ARP cell, and
the cycle of an offset list (spec/45_arpeggio.md). -/

namespace Sys2Proof.Machine

/-! ## PeriodOf -/

/-- The table entry of a note in 1..60, with the table's row read as a list (R431). -/
theorem periodEntry_eq_getD (cfg : Config) (ft : BitVec 4) {n : Nat} (hn : n ≤ 60) :
    periodEntry cfg ft n = (cfg.periodTable[ft.toNat]'ft.isLt).toList.getD (n - 1) 0 := by
  have hindex : min (n - 1) 59 = n - 1 := by omega
  have hlen : n - 1 < (cfg.periodTable[ft.toNat]'ft.isLt).toList.length := by rw [Vector.length_toList]; omega
  simp only [periodEntry, hindex, List.getD_eq_getElem _ _ hlen, Vector.getElem_toList]

/-- Settles O6: an entry has 16 bits, so of the clamp of R303 only the floor acts. -/
theorem periodOfLooksUpAndClamps : Obligations.PeriodOfLooksUpAndClamps := by
  intro cfg ft n
  have hnote : clamp 1 noteMax n = max 1 (min 60 n) := clamp_eq_max_min 1 noteMax n (by decide)
  have hentry := (periodEntry cfg ft (max 1 (min 60 n)).toNat).isLt
  have hclamp := clampPeriod_toNat (periodEntry cfg ft (max 1 (min 60 n)).toNat).toNat
  rw [periodOf, hnote, ← periodEntry_eq_getD cfg ft (by omega)]
  omega

/-! ## ComposePeriod -/

/-- ComposePeriod as one write of the output period (R440). -/
theorem composePeriod_eq (c : Channel) (s : State) :
    composePeriod c s = s.setVoice c { s.voice c with
      outPeriod := if (s.voice c).period = 0 then 0
        else clampPeriod (((heldPeriod (s.voice c)).toNat : Int) + s.dv c) } := by
  simp only [composePeriod]
  split <;> rfl

/-- Settles O32. -/
theorem outputPeriodIsComposed : Obligations.OutputPeriodIsComposed := by
  intro c s v base
  have hbase : ((heldPeriod v).toNat : Int) = base := by
    simp only [heldPeriod, base]
    split <;> rfl
  refine ⟨_, composePeriod_eq c s, ?_⟩
  by_cases hpitch : v.period = 0
  · rw [if_pos hpitch, if_pos hpitch]; rfl
  · rw [if_neg hpitch, if_neg hpitch, clampPeriod_toNat, hbase]

/-! ## ArpeggioTick -/

/-- Settles O31: a voice with no arpeggio or no pitch is written back as it was. -/
theorem arpeggioHoldsBelowItsSpeed : Obligations.ArpeggioHoldsBelowItsSpeed := by
  intro c s v
  rw [arpeggioTick, stepArpeggio, apply_ite (s.setVoice c), apply_ite (s.setVoice c), setVoice_voice]

/-- The entry under a cursor inside the list is the offset there. -/
theorem arpEntryAt_toInt {l : List Nibble} (hl : l.length ≤ 8) {k : Nat} (hk : k < l.length) :
    (arpEntryAt (arpListOf l) k).toInt = (l.getD k 0).toNat := by
  have hnibble : ∀ n : Nibble, (n.setWidth 8).toInt = n.toNat := by decide
  rw [arpEntryAt_ofList l k hl, List.getElem?_eq_getElem hk, List.getD_eq_getElem _ _ hk]
  exact hnibble l[k]

/-- The voice after a step that plays the k-th offset of l: the counter starts again and the cursor moves on, wrapping at the end
of l (45_arpeggio.md R436). -/
def playOffset (cfg : Config) (l : List Nibble) (k : Nat) (v : Voice) : Voice :=
  { v with
    arpCtr := 0
    arpOut := periodOf cfg v.ft ((v.note.toNat : Int) + (l.getD k 0).toNat)
    arpPos := BitVec.ofNat 4 ((k + 1) % l.length) }

/-- At speed 1 every step plays the offset under the cursor. -/
theorem stepArpeggio_of_speed_one (cfg : Config) {v : Voice} {l : List Nibble} (hl : l.length ≤ 8) (hon : v.arpOn = true)
    (hpitch : v.period ≠ 0) (hspeed : v.arpSpeed = 1) (hlist : v.arpList = arpListOf l) {k : Nat} (hk : k < l.length)
    (hpos : v.arpPos = BitVec.ofNat 4 k) : stepArpeggio cfg v = playOffset cfg l k v := by
  have hcursor : v.arpPos.toNat = k := by rw [hpos, BitVec.toNat_ofNat, Nat.mod_eq_of_lt (by omega)]
  have hruns : ¬ (v.arpOn = false ∨ v.period = 0) := not_or.2 ⟨by simp [hon], hpitch⟩
  have hdue : ¬ v.arpCtr.toNat + 1 < v.arpSpeed.toNat := by simp [hspeed]
  have hwrap : (if l.length ≤ k + 1 then 0 else BitVec.ofNat 4 (k + 1)) = BitVec.ofNat 4 ((k + 1) % l.length) := by
    split
    · rw [show k + 1 = l.length by omega, Nat.mod_self]; rfl
    · rw [Nat.mod_eq_of_lt (by omega)]
  rw [stepArpeggio, if_neg hruns, if_neg hdue, hcursor, hlist]
  simp only [arpEntryAt_neg l hl, arpEntryAt_toInt hl hk, hwrap, playOffset, hlist]

/-- From the start of a list at speed 1, step n + 1 plays the offset n modulo the length. -/
theorem stepArpeggio_iterate (cfg : Config) {v : Voice} {l : List Nibble} (hne : l ≠ []) (hl : l.length ≤ 8)
    (hon : v.arpOn = true) (hpitch : v.period ≠ 0) (hspeed : v.arpSpeed = 1) (hlist : v.arpList = arpListOf l)
    (hstart : v.arpPos = 0) (n : Nat) : (stepArpeggio cfg)^[n + 1] v = playOffset cfg l (n % l.length) v := by
  have hlen : 0 < l.length := List.length_pos_iff.2 hne
  induction n with
  | zero =>
    rw [Nat.zero_mod]
    exact stepArpeggio_of_speed_one cfg hl hon hpitch hspeed hlist hlen hstart
  | succ n ih =>
    have hpos : (playOffset cfg l (n % l.length) v).arpPos = BitVec.ofNat 4 ((n + 1) % l.length) := by
      rw [playOffset, Nat.mod_add_mod]
    rw [Function.iterate_succ_apply', ih]
    exact stepArpeggio_of_speed_one (v := playOffset cfg l (n % l.length) v) cfg hl hon hpitch hspeed hlist
      (Nat.mod_lt _ hlen) hpos

/-- Settles O30: the voice after n + 1 steps has played the offset n modulo the length. -/
theorem arpeggioCyclesThroughItsOffsets : Obligations.ArpeggioCyclesThroughItsOffsets := by
  intro cfg v l hne hl hon hpitch hspeed hlist hstart n w
  have hw : w = playOffset cfg l (n % l.length) v := stepArpeggio_iterate cfg hne hl hon hpitch hspeed hlist hstart n
  have hcursor : (n + 1) % l.length < l.length := Nat.mod_lt _ (List.length_pos_iff.2 hne)
  rw [hw]
  refine ⟨rfl, ?cursor, rfl⟩
  case cursor => rw [playOffset, Nat.mod_add_mod, BitVec.toNat_ofNat, Nat.mod_eq_of_lt (by omega)]

/-! ## The row load of an ARP cell -/

theorem withArpeggio_of_ne_nil {l : List Nibble} (hl : l ≠ []) (v : Voice) :
    withArpeggio l v = { v with
      arpOn := true
      arpList := arpListOf l
      arpPos := if v.arpOn = true ∧ v.arpPos.toNat < l.length then v.arpPos else 0
      arpCtr := if v.arpOn then v.arpCtr else 0
      arpOut := if v.arpOn then v.arpOut else v.period } := if_neg hl

theorem arpSetup_voice (c : Channel) (s : State) :
    (arpSetup c s).voice c = withArpeggio
      (cellOffsets s ⟨(s.voice c).arpidx, 0, 0, (s.voice c).fx, (s.voice c).arg⟩) (s.voice c) := by
  rw [arpSetup_eq, voice_setVoice]

theorem arpSetup_eq_setVoice (c : Channel) (s : State) : arpSetup c s = s.setVoice c ((arpSetup c s).voice c) := by
  rw [arpSetup_voice, arpSetup_eq]

/-- No other effect has ARP's code; EXTRA is the one that RowLoad reads (41_row_load.md R252). -/
theorem arp_code_ne_extra {m : EffectCodeMap} (h : m.wf = true) : m.arp ≠ m.extra := by
  have hnodup := (m.wf_iff.1 h).1
  simp only [EffectCodeMap.codes, List.nodup_cons, List.mem_cons, not_or] at hnodup
  tauto

/-- Before its note, a row load with assigned codes and no instrument past NUM_INSTR only writes the voice. -/
theorem loadHead_eq_setVoice (c : Channel) {f : CellFields} {s : State} (hfx : f.fx ∈ s.cfg.codes.codes)
    (hsub : f.fx = s.cfg.codes.extra → argX f.arg ∈ s.cfg.codes.subcodes) (hinst : f.inst.toNat ≤ s.song.numInstr) :
    loadHead c f s = s.setVoice c (resolvedVoice s.song f (s.voice c)) := by
  rw [loadHead, flagReserved_of_assigned (s := latchEffect c f s) hfx hsub, latchEffect, resolveInstrument]
  split
  · rename_i hzero
    rw [resolvedVoice_of_none (by rw [hzero]; exact s.song.instrumentAt_zero)]
  · rename_i hne
    rw [setVoice_song]
    split
    · rename_i hnone
      rw [instrumentAt_eq_none_iff _ (fun h => hne (BitVec.eq_of_toNat_eq h))] at hnone
      omega
    · rename_i i hsome
      rw [resolvedVoice_of_some hsome, ← clampVolume_nat, voice_setVoice, setVoice_setVoice]

/-- An ARP cell with no note and no instrument past NUM_INSTR is ArpSetup on the latched cell with its instrument resolved. -/
theorem exec_arp_of_no_note {h : Head} {x y : Nibble} {s : State} (hcodes : s.cfg.codes.wf = true)
    (hfirst : s.seq.first = true) (hnote : h.note = 0) (hinst : h.inst.toNat ≤ s.song.numInstr) :
    exec (.arp h x y) s = .next (arpSetup s.ch (s.setVoice s.ch
      (resolvedVoice s.song ⟨h.arpidx, h.note, h.inst, s.cfg.codes.arp, argOf x y⟩ (s.voice s.ch)))) := by
  have hassigned : s.cfg.codes.arp ∈ s.cfg.codes.codes := List.mem_cons_self
  rw [exec_arp, afterLoad, if_pos hfirst, Instr.fields, rowLoad_eq, loadNote, if_pos hnote,
    loadHead_eq_setVoice _ hassigned (fun hextra => absurd hextra (arp_code_ne_extra hcodes)) hinst]

/-- Settles O29: ArpSetup puts the cell's offset list in force, and the four clauses are the four lists a cell can have. -/
theorem arpSetupPutsTheOffsetListInForce : Obligations.ArpSetupPutsTheOffsetListInForce := by
  refine ⟨fun c s => ?setup, fun h x y s hcodes hfirst hnote => ⟨fun hinst => ?bare, fun _ hinst => ?resolved⟩⟩
  case setup =>
    intro v nibbles inForce t w
    have hput {l : List Nibble} (hl : cellOffsets s ⟨v.arpidx, 0, 0, v.fx, v.arg⟩ = l) : w = withArpeggio l v :=
      hl ▸ arpSetup_voice c s
    refine ⟨arpSetup_onlyChannel c s, arpSetup_eq_setVoice c s, fun hfx harg => ?operands, fun hfx harg hidx hsome => ?table,
      fun hfx harg hidx hnone => ?emptyTable, fun hoff => ?off⟩
    case operands => exact (hput (cellOffsets_operands _ _ hfx harg)).trans (withArpeggio_of_ne_nil (List.cons_ne_nil _ _) v)
    case table => exact (hput (cellOffsets_table _ _ hfx harg hidx)).trans (withArpeggio_of_ne_nil hsome v)
    case emptyTable => exact (hput ((cellOffsets_table _ _ hfx harg hidx).trans hnone)).trans (withArpeggio_nil v)
    case off => exact (hput (cellOffsets_off _ _ hoff)).trans (withArpeggio_nil v)
  case bare =>
    rw [exec_arp_of_no_note hcodes hfirst hnote (by simp [hinst]), resolvedVoice_of_none]
    rw [hinst]; exact s.song.instrumentAt_zero
  case resolved => exact exec_arp_of_no_note hcodes hfirst hnote hinst

end Sys2Proof.Machine
end

section
/-! PROOFS. The synth engine (O33 to O35): one rule for each transition of the envelope, each branch of WaveStep and of
InstrVibrato (spec/46_synth_engine.md). -/

namespace Sys2Proof.Machine

/-! ## The envelope -/

/-- With no step to add, ADD jumps to the top level and ends there (R462). -/
theorem envelope_add_of_no_step {y : Synth} (henv : y.env = .add) (hadd : y.add = 0) :
    envelope y = { y with svol := 127, env := .done } := by
  simp only [envelope, henv, hadd, if_true]

/-- ADD ramps up to 127 and hands over to SUB exactly there (R462). -/
theorem envelope_add_ramps {y : Synth} (henv : y.env = .add) (hadd : y.add ≠ 0) :
    ∃ v : BitVec 7, v.toNat = min 127 (y.svol.toNat + y.add.toNat) ∧
      envelope y = { y with svol := v, env := if v.toNat = 127 then .sub else .add } := by
  have hv : (BitVec.ofNat 7 (min (y.svol.toNat + y.add.toNat) 127)).toNat = min (y.svol.toNat + y.add.toNat) 127 :=
    Nat.mod_eq_of_lt (by omega)
  refine ⟨_, hv.trans (Nat.min_comm ..), ?_⟩
  simp only [envelope, henv, hadd, if_false, hv]

/-- At its end level or below it, SUB ends without a change of the level (R462). -/
theorem envelope_sub_of_le_end {y : Synth} (henv : y.env = .sub) (hend : y.svol.toNat ≤ y.endLevel.toNat) :
    envelope y = { y with env := .done } := by
  simp only [envelope, henv, hend, if_true]

/-- SUB ramps down to the end level and hands over to DONE exactly there (R462). -/
theorem envelope_sub_ramps {y : Synth} (henv : y.env = .sub) (hend : y.endLevel.toNat < y.svol.toNat) :
    ∃ v : BitVec 7, v.toNat = max y.endLevel.toNat (y.svol.toNat - y.sub.toNat) ∧
      envelope y = { y with svol := v, env := if v.toNat = y.endLevel.toNat then .done else .sub } := by
  have hmax : max ((y.svol.toNat : Int) - y.sub.toNat) y.endLevel.toNat =
      (max y.endLevel.toNat (y.svol.toNat - y.sub.toNat) : Nat) := by omega
  have hv : (BitVec.ofNat 7 (max y.endLevel.toNat (y.svol.toNat - y.sub.toNat))).toNat =
      max y.endLevel.toNat (y.svol.toNat - y.sub.toNat) := Nat.mod_eq_of_lt (by omega)
  refine ⟨_, hv, ?_⟩
  simp only [envelope, henv, Nat.not_le.2 hend, if_false, hmax, hv, BitVec.ofInt_natCast, Nat.cast_inj]

theorem envelope_done {y : Synth} (henv : y.env = .done) : envelope y = y := by
  simp only [envelope, henv]

theorem synthTick_of_synth {c : Channel} {s : State} (h : (s.voice c).isSynth = true) :
    synthTick c s = instrVibrato c (waveStep c (envelopeStep c s)) := if_pos h

theorem synthTick_of_sample {c : Channel} {s : State} (h : (s.voice c).isSynth = false) :
    synthTick c s = if s.cfg.adsrOnSamples then envelopeStep c s else s := if_neg (by simp [h])

/-- Settles O33: one clause for each transition of the envelope, and the dispatch of SynthTick. -/
theorem envelopeRampsAndStops : Obligations.EnvelopeRampsAndStops := by
  intro c s y z
  have hz : z = envelope y := synth_setSynth ..
  have hstep : envelopeStep c s = s.setSynth c z := by rw [hz]; rfl
  rw [hz] at hstep ⊢
  refine ⟨envelope_add_of_no_step, fun henv hadd => ?up, envelope_sub_of_le_end, fun henv hend => ?down, envelope_done, hstep,
    synthTick_of_synth, synthTick_of_sample⟩
  case up =>
    obtain ⟨v, hv, hramp⟩ := envelope_add_ramps henv hadd
    rw [hramp]
    exact ⟨rfl, hv, by simp, by split <;> simp⟩
  case down =>
    obtain ⟨v, hv, hramp⟩ := envelope_sub_ramps henv hend
    rw [hramp]
    exact ⟨rfl, hv, by simp, by split <;> simp⟩

/-! ## The wavetable cursor -/

/-- The cursor moves by one wave, in the direction of Y.wdir. -/
def nextWave (y : Synth) : Int := (y.widx.toNat : Int) + (if y.wdir then -1 else 1)

/-- The next wave lies in the loop window. -/
def insideWindow (y : Synth) : Prop := windowLo y ≤ nextWave y ∧ nextWave y ≤ windowHi y

/-- The cursor takes the next wave inside the window; outside it the loop mode says where it goes (R480). -/
theorem cursorStep_cases (y : Synth) :
    insideWindow y ∧ cursorStep y = (y.wdir, nextWave y) ∨
    ¬ insideWindow y ∧ y.wmode = .normal ∧ cursorStep y = (y.wdir, windowLo y) ∨
    ¬ insideWindow y ∧ y.wmode = .backward ∧ cursorStep y = (true, windowHi y) ∨
    ¬ insideWindow y ∧ y.wmode = .pingpong ∧ cursorStep y = (!y.wdir, (y.widx.toNat : Int)) := by
  have hnext : (if y.wdir then (y.widx.toNat : Int) - 1 else (y.widx.toNat : Int) + 1) = nextWave y := by
    unfold nextWave; split <;> rfl
  by_cases hin : insideWindow y
  · have hstay : ¬ (windowHi y < nextWave y ∨ nextWave y < windowLo y) := by unfold insideWindow at hin; omega
    simp only [cursorStep, hnext, hstay, hin, if_false, true_and, true_or]
  · have hleave : windowHi y < nextWave y ∨ nextWave y < windowLo y := by unfold insideWindow at hin; omega
    simp only [cursorStep, hnext, hleave, hin, if_true]
    cases y.wmode <;> simp

/-- In a window that is not empty the cursor never goes below wave 0. -/
theorem cursorStep_nonneg {y : Synth} (hlen : y.wlLen ≠ 0) : 0 ≤ (cursorStep y).2 := by
  have hpos : y.wlLen.toNat ≠ 0 := fun h => hlen (BitVec.eq_of_toNat_eq h)
  have hlo : 0 ≤ windowLo y := Int.natCast_nonneg _
  have hhi : 0 ≤ windowHi y := by unfold windowHi; omega
  obtain ⟨hin, e⟩ | ⟨-, -, e⟩ | ⟨-, -, e⟩ | ⟨-, -, e⟩ := cursorStep_cases y <;> rw [e]
  · exact hlo.trans hin.1
  · exact hlo
  · exact hhi
  · exact Int.natCast_nonneg _

theorem storeCursor_toNat {n : Int} (h0 : 0 ≤ n) (h256 : n < 256) : ((storeCursor n).toNat : Int) = n := by
  rw [storeCursor, if_pos h256, BitVec.toNat_ofInt]
  omega

/-- The bank after a cursor step (R480). -/
def cursorMoved (y : Synth) : Synth :=
  { y with wctr := 0, wdir := (cursorStep y).1, widx := storeCursor (cursorStep y).2 }

/-! ## The branches of WaveStep -/

theorem waveStep_of_frozen {c : Channel} {s : State} (hspeed : (s.synth c).wspeed = 0) : waveStep c s = s := if_pos hspeed

theorem waveStep_of_counting {c : Channel} {s : State} (hspeed : (s.synth c).wspeed ≠ 0)
    (hcount : (s.synth c).wctr.toNat + 1 < (s.synth c).wspeed.toNat) :
    waveStep c s = s.setSynth c { s.synth c with wctr := (s.synth c).wctr + 1 } := by
  have hctr : BitVec.ofNat 8 ((s.synth c).wctr.toNat + 1) = (s.synth c).wctr + 1 := by
    rw [BitVec.ofNat_add, BitVec.ofNat_toNat, BitVec.setWidth_eq]; rfl
  simp only [waveStep, hspeed, hcount, hctr, if_true, if_false]

theorem waveStep_of_empty_window {c : Channel} {s : State} (hspeed : (s.synth c).wspeed ≠ 0)
    (hdue : (s.synth c).wspeed.toNat ≤ (s.synth c).wctr.toNat + 1) (hlen : (s.synth c).wlLen = 0) :
    waveStep c s = s.setSynth c { s.synth c with wctr := 0 } := by
  simp only [waveStep, hspeed, Nat.not_lt.2 hdue, hlen, if_true, if_false]

theorem waveStep_of_due {c : Channel} {s : State} (hspeed : (s.synth c).wspeed ≠ 0)
    (hdue : (s.synth c).wspeed.toNat ≤ (s.synth c).wctr.toNat + 1) (hlen : (s.synth c).wlLen ≠ 0) :
    waveStep c s = (s.setSynth c (cursorMoved (s.synth c))).setMixer c
      (waveRegion (cursorMoved (s.synth c)) (s.mixer c)) := by
  simp only [waveStep, hspeed, Nat.not_lt.2 hdue, hlen, if_false, moveCursor, synth_setSynth, mixer_setSynth, setSynth_setSynth]
  rfl

/-- Whatever its branch, WaveStep writes the synth bank and the mixer bank of its channel. -/
theorem waveStep_eq_writes (c : Channel) (s : State) : ∃ y m, waveStep c s = (s.setSynth c y).setMixer c m := by
  by_cases hspeed : (s.synth c).wspeed = 0
  · exact ⟨s.synth c, s.mixer c, by rw [waveStep_of_frozen hspeed, setSynth_synth, setMixer_mixer]⟩
  by_cases hcount : (s.synth c).wctr.toNat + 1 < (s.synth c).wspeed.toNat
  · exact ⟨_, s.mixer c, by rw [waveStep_of_counting hspeed hcount, ← mixer_setSynth s c c, setMixer_mixer]⟩
  by_cases hlen : (s.synth c).wlLen = 0
  · exact ⟨_, s.mixer c, by
      rw [waveStep_of_empty_window hspeed (Nat.not_lt.1 hcount) hlen, ← mixer_setSynth s c c, setMixer_mixer]⟩
  · exact ⟨_, _, waveStep_of_due hspeed (Nat.not_lt.1 hcount) hlen⟩

/-- Settles O34: one clause for each branch of WaveStep, and the cursor step in the terms of the window. -/
theorem waveStepMovesTheCursorAndTheLoopRegion : Obligations.WaveStepMovesTheCursorAndTheLoopRegion := by
  intro c s y lo hi n out moved t z
  obtain ⟨yw, mw, hwrites⟩ := waveStep_eq_writes c s
  have ht : t = (s.setSynth c yw).setMixer c mw := hwrites
  refine ⟨waveStep_onlyChannel c s, by simp [ht], by simp [ht], by simp [ht], waveStep_of_frozen, waveStep_of_counting,
    waveStep_of_empty_window, fun hspeed hdue hlen => ?due⟩
  case due =>
    have hdueStep : t = (s.setSynth c (cursorMoved y)).setMixer c (waveRegion (cursorMoved y) (s.mixer c)) :=
      waveStep_of_due hspeed hdue hlen
    have hz : z = cursorMoved y := by simp [z, hdueStep]
    have hout : out ↔ ¬ insideWindow y := by rw [insideWindow, not_and_or, not_le, not_le]; rfl
    have hmoved : (cursorStep y).2 = moved := by
      obtain ⟨hin, e⟩ | ⟨hleft, hmode, e⟩ | ⟨hleft, hmode, e⟩ | ⟨hleft, hmode, e⟩ := cursorStep_cases y
      · simp [moved, hout, hin, e, n, nextWave]
      all_goals simp [moved, hout, hleft, hmode, e, lo, hi, windowLo, windowHi]
    rw [hz]
    refine ⟨rfl, fun h256 => ?cursor, ?direction, ?region⟩
    case cursor => exact hmoved ▸ storeCursor_toNat (cursorStep_nonneg hlen) (hmoved ▸ h256)
    case direction =>
      show (cursorStep y).1 = _
      obtain ⟨hin, e⟩ | ⟨hleft, hmode, e⟩ | ⟨hleft, hmode, e⟩ | ⟨hleft, hmode, e⟩ := cursorStep_cases y
      · simp [hout, hin, e]
      all_goals simp [hout, hleft, hmode, e]
    case region => rw [hdueStep, mixer_setMixer, waveRegion, ← BitVec.ofNat_toNat]; rfl

/-! ## The instrument vibrato -/

/-- A table entry is at most 255. -/
theorem vibDelta_le_of_depth (cfg : Config) (sel : BitVec 2) (pos : BitVec 5) (depth : Nat) :
    vibDelta cfg sel pos depth ≤ 255 * depth / 128 := by
  rw [vibDelta, Nat.shiftRight_eq_div_pow]
  exact Nat.div_le_div_right (Nat.mul_le_mul_right depth (Nat.le_of_lt_succ (BitVec.isLt _)))

theorem clampPeriod_eq_max_min (v : Int) : clampPeriod v = BitVec.ofInt 16 (max 103 (min 65535 v)) :=
  congrArg (BitVec.ofInt 16) (clamp_eq_max_min _ _ v (by decide))

theorem instrVibrato_of_waiting {c : Channel} {s : State} (hdelay : 0 < (s.synth c).vdelay.toNat) :
    instrVibrato c s = s.setSynth c { s.synth c with vdelay := BitVec.ofNat 8 ((s.synth c).vdelay.toNat - 1) } := by
  have hne : (s.synth c).vdelay ≠ 0 := fun h => by simp [h] at hdelay
  have hless : (s.synth c).vdelay - 1 = BitVec.ofNat 8 ((s.synth c).vdelay.toNat - 1) := by bv_omega
  rw [← hless]
  exact if_pos hne

theorem instrVibrato_of_no_pitch {c : Channel} {s : State} (hdelay : (s.synth c).vdelay = 0)
    (hpitch : (s.voice c).outPeriod = 0) : instrVibrato c s = s := by
  simp only [instrVibrato, hdelay, hpitch, ne_eq, not_true_eq_false, if_true, if_false]

/-- With the delay over and a pitch, the output period moves and the position advances; the sign is negated once for each wrap
of the position, so on an odd number of them it flips (R490). -/
theorem instrVibrato_moves {c : Channel} {s : State} (hdelay : (s.synth c).vdelay = 0)
    (hpitch : (s.voice c).outPeriod ≠ 0) :
    instrVibrato c s =
      (s.setVoice c { s.voice c with
        outPeriod := clampPeriod (((s.voice c).outPeriod.toNat : Int) + signedDelta (s.synth c).vsign
          (vibDelta s.cfg (s.synth c).vwave (s.synth c).vpos (s.synth c).vdepth.toNat)) }).setSynth c
        { s.synth c with
          vpos := BitVec.ofNat 5 ((s.synth c).vpos.toNat + (s.synth c).vspeed.toNat)
          vsign := if ((s.synth c).vpos.toNat + (s.synth c).vspeed.toNat) / 32 % 2 = 1 then !(s.synth c).vsign
            else (s.synth c).vsign } := by
  have hpos : ∀ p, BitVec.ofNat 5 (p % 32) = BitVec.ofNat 5 p := fun p =>
    BitVec.eq_of_toNat_eq (by rw [BitVec.toNat_ofNat, BitVec.toNat_ofNat]; omega)
  have hsign : ∀ (b : Bool) (P : Prop) [Decidable P], (b ^^ decide P) = if P then !b else b := by
    intro b P _; split <;> simp [*]
  simp only [instrVibrato, hdelay, hpitch, ne_eq, not_true_eq_false, if_false, hpos, hsign]

/-- Settles O35: the delay, no pitch, and the move, with the table read as lists. -/
theorem instrumentVibratoWaitsThenMoves : Obligations.InstrumentVibratoWaitsThenMoves := by
  intro c s y v entry delta p
  have hdelta : delta = (vibDelta s.cfg y.vwave y.vpos y.vdepth.toNat : Int) := congrArg Nat.cast (vibDelta_eq ..).symm
  refine ⟨?bound, ?step⟩
  case bound =>
    have hle := vibDelta_le_of_depth s.cfg y.vwave y.vpos y.vdepth.toNat
    omega
  case step =>
    by_cases hwait : 0 < y.vdelay.toNat
    · rw [if_pos hwait]
      exact instrVibrato_of_waiting hwait
    have hdelay : y.vdelay = 0 := BitVec.eq_of_toNat_eq (Nat.eq_zero_of_not_pos hwait)
    rw [if_neg hwait]
    by_cases hpitch : v.outPeriod = 0
    · rw [if_pos hpitch]
      exact instrVibrato_of_no_pitch hdelay hpitch
    · rw [if_neg hpitch, instrVibrato_moves hdelay hpitch, clampPeriod_eq_max_min, hdelta]
      rfl

end Sys2Proof.Machine
end

section
/-! PROOFS. The mixer's tick and its regions (O36, O38), and what MixChannel does to one channel (O37)
(spec/47_mixer.md R520 to R545). -/

namespace Sys2Proof.Machine

/-! ## MixerUpdate -/

/-- Settles O36: the product of the denominator is taken in the rationals, and a shift right by k divides by 2 ^ k. -/
theorem mixerUpdateSetsIncrementAndGain : Obligations.MixerUpdateSetsIncrementAndGain := by
  intro c s v k
  have hshift : k = svolShift s.cfg s.song.variant := rfl
  have hpitch : v.outPeriod = 0 ↔ v.outPeriod.toNat = 0 := BitVec.toNat_inj.symm
  have hinc : incOf s.cfg s.cr.sampleRate v.outPeriod = if v.outPeriod.toNat = 0 then 0
      else (s.cfg.palClock : Rat) / ((v.outPeriod.toNat : Rat) * (s.cr.sampleRate.toNat : Rat)) := by
    simp only [incOf, hpitch, Nat.cast_mul]
  have hgain : gainOf s.cfg s.song.variant v (s.synth c) =
      (v.volume.toNat : Rat) * (((s.synth c).svol.toNat / 2 ^ k : Nat) : Rat) * (v.trackVol.toNat : Rat) / 524288 := by
    rw [gainOf, hshift, Nat.shiftRight_eq_div_pow, Nat.cast_mul, Nat.cast_mul]
    norm_num
  rw [mixerUpdate, hinc, hgain]

/-! ## The end of a region -/

/-- The channel in its loop region, at the excess of the phase over the old region where that fits, else at the start (R533). -/
def loopEntered (m : Mixer) : Mixer :=
  { m with
    curWave := m.loopWave, curOff := m.loopOff, curLen := m.loopLen
    phase := if m.phase - (m.curLen.toNat : Rat) < (m.loopLen.toNat : Rat) then m.phase - (m.curLen.toNat : Rat) else 0 }

theorem regionEnd_of_no_loop {m : Mixer} (h : m.loopValid = false) : regionEnd m = { m with active := false } :=
  if_neg (by simp [h])

theorem regionEnd_of_loop {m : Mixer} (h : m.loopValid = true) : regionEnd m = loopEntered m := by
  simp only [regionEnd, loopEntered, h, if_true, ← not_lt, ite_not]

/-- The phase of an entered loop lies inside it, if there is anything in it. -/
theorem loopEntered_phase_lt {m : Mixer} (h : 0 < m.loopLen.toNat) :
    (loopEntered m).phase < ((loopEntered m).curLen.toNat : Rat) := by
  simp only [loopEntered]
  split
  · assumption
  · exact_mod_cast h

/-- Settles O38: the two branches of RegionEnd. -/
theorem regionEndEntersTheLoopOrStops : Obligations.RegionEndEntersTheLoopOrStops := by
  intro m
  refine ⟨regionEnd_of_no_loop, fun hloop => ⟨regionEnd_of_loop hloop, fun hlen => ?_⟩⟩
  rw [regionEnd_of_loop hloop]
  exact loopEntered_phase_lt hlen

theorem settleRegion_of_inactive {m : Mixer} (h : m.active = false) : settleRegion m = m := if_neg (by simp [h])

theorem settleRegion_of_inside {m : Mixer} (h : m.phase < (m.curLen.toNat : Rat)) : settleRegion m = m :=
  if_neg (by simp [regionExhausted, h])

theorem settleRegion_of_exhausted {m : Mixer} (hact : m.active = true) (hend : (m.curLen.toNat : Rat) ≤ m.phase) :
    settleRegion m = regionEnd m :=
  if_pos (by simp [regionExhausted, hact, hend])

/-! ## MixChannel as a function of the song and the channel's mixer -/

/-- The byte under the phase; none outside the waveform (R530; 20_memory.md R116). -/
def byteUnderPhase (g : Song) (m : Mixer) : Option Byte := g.waveAt m.curWave.toNat (sampleAddr m)

/-- The mixer channel one frame later (R530). -/
def mixerAfter (m : Mixer) : Mixer :=
  if (settleRegion m).active then { settleRegion m with phase := (settleRegion m).phase + (settleRegion m).inc }
  else settleRegion m

/-- The channel reads outside its waveform in this frame. -/
def readsOutside (g : Song) (m : Mixer) : Bool :=
  (settleRegion m).active && (byteUnderPhase g (settleRegion m)).isNone

/-- The channel's output in this frame (R536). -/
def channelOutput (g : Song) (m : Mixer) : Rat :=
  if (settleRegion m).active then (((byteUnderPhase g (settleRegion m)).elim 0 BitVec.toInt : Int) : Rat) / 128 * m.gain
  else 0

/-- MixChannel reads the song and the channel's mixer, and writes that mixer and OOB_READ. -/
theorem mixChannel_eq (c : Channel) (s : State) :
    mixChannel c s = (flagIf (readsOutside s.song (s.mixer c)) .oobRead (s.setMixer c (mixerAfter (s.mixer c))),
      channelOutput s.song (s.mixer c)) := by
  simp only [mixChannel, mixerAfter, readsOutside, channelOutput, byteUnderPhase, waveRead]
  by_cases hact : (settleRegion (s.mixer c)).active = true
  · simp only [hact, if_true, Bool.true_and, settleRegion_gain]
    cases s.song.waveAt (settleRegion (s.mixer c)).curWave.toNat (sampleAddr (settleRegion (s.mixer c))) <;> rfl
  · simp [hact, flagIf]

/-- A channel that does not play after its region test answers 0. -/
theorem mixChannel_of_silent {c : Channel} {s : State} (h : (settleRegion (s.mixer c)).active = false) :
    mixChannel c s = (s.setMixer c (settleRegion (s.mixer c)), 0) := by
  simp [mixChannel_eq, mixerAfter, readsOutside, channelOutput, flagIf, h]

/-- A playing channel with a byte under its phase answers it scaled. -/
theorem mixChannel_of_byte {c : Channel} {s : State} {b : Byte} (h : (settleRegion (s.mixer c)).active = true)
    (hb : byteUnderPhase s.song (settleRegion (s.mixer c)) = some b) :
    mixChannel c s = (s.setMixer c (mixerAfter (s.mixer c)), (b.toInt : Rat) / 128 * (s.mixer c).gain) := by
  simp [mixChannel_eq, readsOutside, channelOutput, flagIf, h, hb]

/-- A playing channel with no byte under its phase answers 0 and raises OOB_READ. -/
theorem mixChannel_of_no_byte {c : Channel} {s : State} (h : (settleRegion (s.mixer c)).active = true)
    (hb : byteUnderPhase s.song (settleRegion (s.mixer c)) = none) :
    mixChannel c s = (flag .oobRead (s.setMixer c (mixerAfter (s.mixer c))), 0) := by
  simp [mixChannel_eq, readsOutside, channelOutput, flagIf, h, hb]

/-- Settles O37: the region test leaves the channel as it is, stops it, or enters its loop; one that plays reads its byte. -/
theorem mixChannelReadsTheByteUnderThePhase : Obligations.MixChannelReadsTheByteUnderThePhase := by
  intro c s m r excess
  refine ⟨fun hact => ?inactive, fun hact hend hloop => ?stops, ?plays⟩
  case inactive =>
    have hm : settleRegion (s.mixer c) = s.mixer c := settleRegion_of_inactive hact
    have hr : r = _ := mixChannel_of_silent (by rw [hm]; exact hact)
    rw [hr, hm, setMixer_mixer]
  case stops =>
    have hm : settleRegion (s.mixer c) = { m with active := false } :=
      (settleRegion_of_exhausted hact hend).trans (regionEnd_of_no_loop hloop)
    have hr : r = _ := mixChannel_of_silent (congrArg Mixer.active hm)
    rw [hr, hm]
  case plays =>
    intro hact hplays e moved
    have hm : settleRegion (s.mixer c) = e ∧ e.active = true ∧ e.inc = m.inc := by
      by_cases hin : m.phase < (m.curLen.toNat : Rat)
      · have he : e = m := if_pos hin
        exact ⟨(settleRegion_of_inside hin).trans he.symm, he ▸ hact, congrArg Mixer.inc he⟩
      · have he : e = loopEntered m := if_neg hin
        have hend := settleRegion_of_exhausted hact (not_lt.1 hin)
        exact ⟨(hend.trans (regionEnd_of_loop (hplays.resolve_left hin))).trans he.symm, he ▸ hact,
          congrArg Mixer.inc (a₂ := loopEntered m) he⟩
    obtain ⟨hm, heact, hinc⟩ := hm
    have hplaying : (settleRegion (s.mixer c)).active = true := hm ▸ heact
    have hmoved : s.setMixer c (mixerAfter (s.mixer c)) = moved := by
      rw [mixerAfter, if_pos hplaying, hm, hinc]
    split
    next b hb => exact hmoved ▸ mixChannel_of_byte hplaying (hm ▸ hb)
    next hb => exact hmoved ▸ mixChannel_of_no_byte hplaying (hm ▸ hb)

end Sys2Proof.Machine
end

section
/-! PROOFS. MixFrame and ScopeWrite (O40), and the bound of the frame (O39) (spec/47_mixer.md R549 to R556). -/

namespace Sys2Proof.Machine

/-! ## ScopeWrite -/

/-- ScopeWrite stores one sample at the write index and moves the index on (R556). -/
theorem scope_scopeWrite (c : Channel) (o : Rat) (s : State) :
    (scopeWrite c o s).scope c =
      { ring := (s.scope c).ring.set (s.scope c).wp o, wp := ((s.scope c).wp + 1) % s.cfg.scopeLen } :=
  scope_setScope ..

theorem scopeWrite_eq_setScope (c : Channel) (o : Rat) (s : State) :
    scopeWrite c o s = s.setScope c ((scopeWrite c o s).scope c) := by
  rw [scope_scopeWrite]; rfl

/-! ## One channel of MixFrame's loop -/

/-- The state part of one round of MixFrame's loop: MixChannel, and ScopeWrite where SCOPE_EN is set (R552). -/
def mixRound (c : Channel) (s : State) : State :=
  if s.cr.scopeEn then scopeWrite c (mixChannel c s).2 (mixChannel c s).1 else (mixChannel c s).1

theorem mixRound_onlyChannel (c : Channel) (s : State) : OnlyChannel c s (mixRound c s) := mixInto_onlyChannel (s, 0, 0) c

/-- One round leaves the channel's voice, synth and delta, moves its mixer on and feeds its scope; all of it is a function of
the banks, the song, the parameters and SCOPE_EN. -/
theorem chan_mixRound (c : Channel) (s : State) :
    (mixRound c s).chan c = { s.chan c with
      m := mixerAfter (s.mixer c)
      sc := if s.cr.scopeEn then (scopeWrite c (channelOutput s.song (s.mixer c)) s).scope c else s.scope c } := by
  rw [mixRound, mixChannel_eq, scope_scopeWrite]
  split
  · simp [scopeWrite, State.setScope, State.setMixer, State.scope]
  · simp [State.setMixer, State.scope]

theorem mixRound_cr (c : Channel) (s : State) :
    (mixRound c s).cr = (flagIf (readsOutside s.song (s.mixer c)) .oobRead s).cr := by
  have h : (mixRound c s).cr = (mixChannel c s).1.cr := by unfold mixRound; split <;> rfl
  rw [h, mixChannel_eq]
  exact flagIf_cr_congr (setMixer_cr ..) _ _

/-- One round raises OOB_READ exactly where the channel reads outside. -/
theorem flagged_oobRead_mixRound (c : Channel) (s : State) :
    flagged .oobRead (mixRound c s) = (flagged .oobRead s || readsOutside s.song (s.mixer c)) := by
  rw [flagged, mixRound_cr, ← flagged, flagged_flagIf]
  simp

theorem mixRound_status_other (c : Channel) (s : State) {k : Nat} (hk : k ≠ 2) :
    (mixRound c s).cr.status.getLsbD k = s.cr.status.getLsbD k := by
  rw [mixRound_cr]
  exact flagIf_status_other _ _ _ hk

theorem mixer_mixRound (c : Channel) (s : State) : (mixRound c s).mixer c = mixerAfter (s.mixer c) :=
  congrArg Chan.m (chan_mixRound c s)

/-- Mixing a frame moves no pan gain. -/
theorem mixerAfter_pan (m : Mixer) : (mixerAfter m).panL = m.panL ∧ (mixerAfter m).panR = m.panR := by
  unfold mixerAfter settleRegion regionEnd
  repeat' split
  all_goals exact ⟨rfl, rfl⟩

/-- A channel's output times its pan gains (R552). -/
def pannedOutput (g : Song) (m : Mixer) : Frame := (channelOutput g m * m.panL, channelOutput g m * m.panR)

/-- One round of MixFrame's loop adds the channel's panned output to the frame. -/
theorem mixInto_eq (a : State × Frame) (c : Channel) :
    mixInto a c = (mixRound c a.1, a.2 + pannedOutput a.1.song (a.1.mixer c)) := by
  have hout : (mixChannel c a.1).2 = channelOutput a.1.song (a.1.mixer c) := congrArg Prod.snd (mixChannel_eq c a.1)
  obtain ⟨hl, hr⟩ := mixerAfter_pan (a.1.mixer c)
  rw [pannedOutput, ← hl, ← hr, ← mixer_mixRound, ← hout]
  rfl

/-! ## The loop -/

/-- The state that MixFrame leaves is that of its rounds. -/
theorem mixFrame_state (s : State) : (mixFrame s).1 = s.channels.foldl (fun t c => mixRound c t) s :=
  (List.foldl_hom Prod.fst fun _ _ => rfl).symm

/-- A round changes nothing that the rounds of other channels read. -/
theorem map_mixRound {α : Type} (F : Song → Mixer → α) {a : Channel} {l : List Channel} (ha : a ∉ l) (s : State) :
    l.map (fun c => F (mixRound a s).song ((mixRound a s).mixer c)) = l.map (fun c => F s.song (s.mixer c)) := by
  refine List.map_congr_left fun c hc => ?_
  have hne : c ≠ a := fun e => ha (e ▸ hc)
  have hmixer : (mixRound a s).mixer c = s.mixer c := congrArg Chan.m ((mixRound_onlyChannel a s).others c hne)
  rw [(mixRound_onlyChannel a s).song, hmixer]

/-- Rounds over distinct channels add each channel's panned output, as the first state gives it. -/
theorem foldl_mixInto_frame (l : List Channel) (hn : l.Nodup) (s : State) (f : Frame) :
    (l.foldl mixInto (s, f)).2 = f + (l.map (fun c => pannedOutput s.song (s.mixer c))).sum := by
  induction l generalizing s f with
  | nil => simp
  | cons a l ih =>
    obtain ⟨ha, hn⟩ := List.nodup_cons.1 hn
    rw [List.foldl_cons, mixInto_eq, ih hn, map_mixRound _ ha, List.map_cons, List.sum_cons, add_assoc]

/-- Rounds over distinct channels raise OOB_READ exactly where some channel reads outside, as the first state gives it. -/
theorem foldl_mixRound_oobRead (l : List Channel) (hn : l.Nodup) (s : State) :
    flagged .oobRead (l.foldl (fun t c => mixRound c t) s) =
      (flagged .oobRead s || (l.map (fun c => readsOutside s.song (s.mixer c))).any id) := by
  induction l generalizing s with
  | nil => simp
  | cons a l ih =>
    obtain ⟨ha, hn⟩ := List.nodup_cons.1 hn
    rw [List.foldl_cons, ih hn, map_mixRound _ ha, flagged_oobRead_mixRound, List.map_cons, List.any_cons, Bool.or_assoc]
    rfl

/-! ## The frame -/

/-- The two sums of a frame (R552). -/
theorem mixFrame_frame (s : State) :
    (mixFrame s).2 = ((s.channels.map (fun c => channelOutput s.song (s.mixer c) * (s.mixer c).panL)).sum,
      (s.channels.map (fun c => channelOutput s.song (s.mixer c) * (s.mixer c).panR)).sum) := by
  have h : (mixFrame s).2 = (s.channels.map (fun c => pannedOutput s.song (s.mixer c))).sum :=
    (foldl_mixInto_frame s.channels (channels_nodup s) s 0).trans (zero_add _)
  rw [h]
  ext
  · exact (map_list_sum (AddMonoidHom.fst Rat Rat) _).trans (by rw [List.map_map]; rfl)
  · exact (map_list_sum (AddMonoidHom.snd Rat Rat) _).trans (by rw [List.map_map]; rfl)

/-- What MixFrame leaves in the banks of a channel of the song: what its own round would, alone. -/
theorem chan_mixFrame {s : State} {c : Channel} (hc : c ∈ s.channels) :
    (mixFrame s).1.chan c = (mixRound c s).chan c := by
  obtain ⟨u, hchan, hu, -, e⟩ := foldl_at mixRound mixRound_onlyChannel s.channels (channels_nodup s) s c hc
  have hm : u.mixer c = s.mixer c := congrArg Chan.m hchan
  have hsc : u.scope c = s.scope c := congrArg Chan.sc hchan
  rw [mixFrame_state, e, chan_mixRound, chan_mixRound, scope_scopeWrite, scope_scopeWrite, hchan, hm, hsc, hu.song, hu.cfg,
    hu.scopeEn]

theorem flagged_mixChannel (c : Channel) (s : State) :
    flagged .oobRead (mixChannel c s).1 = (flagged .oobRead s || readsOutside s.song (s.mixer c)) := by
  rw [mixChannel_eq, flagged_flagIf, flagged_of_cr (setMixer_cr ..)]
  simp

theorem flagged_mixFrame (s : State) : flagged .oobRead (mixFrame s).1 =
    (flagged .oobRead s || s.channels.any (fun c => flagged .oobRead (mixChannel c s).1)) := by
  simp only [mixFrame_state, foldl_mixRound_oobRead _ (channels_nodup s), flagged_mixChannel]
  cases flagged .oobRead s <;> simp

theorem mixFrame_status_other (s : State) {k : Nat} (hk : k ≠ 2) :
    (mixFrame s).1.cr.status.getLsbD k = s.cr.status.getLsbD k := by
  rw [mixFrame_state]
  exact foldl_keeps (fun t => t.cr.status.getLsbD k = s.cr.status.getLsbD k) (fun t c => mixRound c t)
    (fun t c h => (mixRound_status_other c t hk).trans h) s.channels s rfl

/-- Settles O40: MixFrame is its rounds, and a round reads and writes no bank of another channel. -/
theorem mixFrameSumsTheChannelsAndFillsTheScopes : Obligations.MixFrameSumsTheChannelsAndFillsTheScopes := by
  refine ⟨fun s => ?frame, fun c o s hwp => ?scopeWrite⟩
  case frame =>
    intro t sample
    have hsample : sample = fun c => channelOutput s.song (s.mixer c) :=
      funext fun c => congrArg Prod.snd (mixChannel_eq c s)
    have ht : t = s.channels.foldl (fun t c => mixRound c t) s := mixFrame_state s
    have hmachine : KeepsHost s t ∧ t.seq = s.seq ∧ t.out = s.out ∧ t.ch = s.ch :=
      ht ▸ foldl_machine mixRound mixRound_onlyChannel s.channels s
    refine ⟨hsample ▸ mixFrame_frame s, fun c hc => ?_, fun c hc => ?_, flagged_mixFrame s,
      fun k => mixFrame_status_other s, hmachine⟩
    · have hbank : t.chan c = _ := (chan_mixFrame hc).trans (chan_mixRound c s)
      have hmixer : (mixChannel c s).1.mixer c = mixerAfter (s.mixer c) := by simp [mixChannel_eq]
      rw [hmixer, hsample]
      simp only [State.mixer, State.scope, State.voice, State.synth, State.dv, hbank, and_self]
    · rw [ht]
      exact foldl_other mixRound mixRound_onlyChannel s.channels s c hc
  case scopeWrite =>
    intro t
    have hscope : t.scope c = _ := scope_scopeWrite c o s
    refine ⟨?_, fun j hj => ?_, ?_, scopeWrite_eq_setScope c o s⟩ <;> rw [hscope]
    · exact List.getElem?_set_self hwp
    · exact List.getElem?_set_ne hj.symm

/-! ## The bound -/

/-- A channel's output is at most its gain's bound: a byte over 128 is at most 1 (R536, R545). -/
theorem channelOutput_abs_le (g : Song) {m : Mixer} (hgain : 0 ≤ m.gain ∧ m.gain ≤ 127 / 128) :
    |channelOutput g m| ≤ 127 / 128 := by
  obtain ⟨h0, h1⟩ := hgain
  have hbyte (b : Byte) : |(b.toInt : Rat) / 128| ≤ 1 := by
    have hlo : (-128 : Rat) ≤ b.toInt := by exact_mod_cast BitVec.le_toInt b
    have hhi : (b.toInt : Rat) < 128 := by exact_mod_cast BitVec.toInt_lt (x := b)
    rw [abs_le]; constructor <;> linarith
  have hread (r : Option Byte) : |((r.elim 0 BitVec.toInt : Int) : Rat) / 128| ≤ 1 := by
    cases r with
    | none => norm_num
    | some b => exact hbyte b
  unfold channelOutput
  split
  · rw [abs_mul, abs_of_nonneg h0]
    calc _ ≤ 1 * m.gain := mul_le_mul_of_nonneg_right (hread _) h0
      _ ≤ 127 / 128 := by linarith
  · norm_num

/-- A sum of bounded outputs, weighted by gains that are not negative. -/
theorem abs_weighted_sum_le {l : List Channel} {x p : Channel → Rat} {b : Rat} (hx : ∀ c ∈ l, |x c| ≤ b)
    (hp : ∀ c ∈ l, 0 ≤ p c) : |(l.map (fun c => x c * p c)).sum| ≤ (l.map p).sum * b := by
  induction l with
  | nil => simp
  | cons a l ih =>
    simp only [List.forall_mem_cons] at hx hp
    have hterm : |x a * p a| ≤ b * p a := by
      rw [abs_mul, abs_of_nonneg hp.1]
      exact mul_le_mul_of_nonneg_right hx.1 hp.1
    simp only [List.map_cons, List.sum_cons]
    linarith [abs_add_le (x a * p a) (l.map (fun c => x c * p c)).sum, ih hx.2 hp.2]

/-- On each side the pan gains of the song's channels sum to half their number, whatever the stereo mix (R548, R549). -/
theorem panGains_sum (var : Variant) (k : BitVec 9) :
    (var.channels.map (fun c => (panGains var k c).1)).sum = (var.nch : Rat) / 2 ∧
    (var.channels.map (fun c => (panGains var k c).2)).sum = (var.nch : Rat) / 2 := by
  cases var <;> simp [Variant.channels, Variant.nch, panGains, sideIsLeft] <;> constructor <;> ring

/-- The pan gains of a legal state are not negative and sum to half the channels on each side. -/
theorem pan_of_inv {s : State} (h : Inv s) :
    (∀ c ∈ s.channels, 0 ≤ (s.mixer c).panL ∧ 0 ≤ (s.mixer c).panR) ∧
    (s.channels.map (fun c => (s.mixer c).panL)).sum = (s.nch : Rat) / 2 ∧
    (s.channels.map (fun c => (s.mixer c).panR)).sum = (s.nch : Rat) / 2 := by
  have hpan : ∀ c ∈ s.channels, (s.mixer c).panL = (panGains s.song.variant s.cr.stereoMix c).1 ∧
      (s.mixer c).panR = (panGains s.song.variant s.cr.stereoMix c).2 :=
    fun c hc => Prod.ext_iff.1 (h.chans c hc).mixer.pan
  obtain ⟨hsumL, hsumR⟩ := panGains_sum s.song.variant s.cr.stereoMix
  refine ⟨fun c hc => ?_, ?_, ?_⟩
  · rw [(hpan c hc).1, (hpan c hc).2]
    exact pan_range _ _ c h.stereo
  · rw [List.map_congr_left fun c hc => (hpan c hc).1]
    exact hsumL
  · rw [List.map_congr_left fun c hc => (hpan c hc).2]
    exact hsumR

/-- Settles O39: each output is bounded by the largest gain, and the pan gains of a side sum to half the channels. -/
theorem frameOutputIsBounded : Obligations.FrameOutputIsBounded := by
  intro s h f
  have hout : ∀ c ∈ s.channels, |channelOutput s.song (s.mixer c)| ≤ 127 / 128 := fun c hc =>
    channelOutput_abs_le _ (h.chans c hc).mixer.gain
  obtain ⟨hpan, hsumL, hsumR⟩ := pan_of_inv h
  have hf : f = _ := mixFrame_frame s
  rw [hf]
  exact ⟨hsumL ▸ abs_weighted_sum_le hout fun c hc => (hpan c hc).1,
    hsumR ▸ abs_weighted_sum_le hout fun c hc => (hpan c hc).2⟩

end Sys2Proof.Machine
end

section
/-! PROOFS. Every instruction completes on its own channel (O48): up to S, what it leaves differs from what it found in the banks
of the running channel and in STATUS bits only. -/

namespace Sys2Proof.Machine

/-! ## Up to S -/

/-- t differs from s only in S, in the banks of channel c and in STATUS bits that s had clear: with the S of s put back it
differs as `OnlyChannel` says. -/
def OnlyChannelAndSeq (c : Channel) (s t : State) : Prop := OnlyChannel c s (t.setSeq s.seq)

theorem OnlyChannel.andSeq {c : Channel} {s t : State} (h : OnlyChannel c s t) : OnlyChannelAndSeq c s t := by
  rwa [OnlyChannelAndSeq, ← h.seq]

theorem setSeq_onlyChannelAndSeq (c : Channel) (s : State) (q : Seq) : OnlyChannelAndSeq c s (s.setSeq q) := .refl c s

theorem OnlyChannel.trans_andSeq {c : Channel} {s t u : State} (h : OnlyChannel c s t) (k : OnlyChannelAndSeq c t u) :
    OnlyChannelAndSeq c s u := by
  have hu : OnlyChannel c t (u.setSeq s.seq) := h.seq ▸ k
  exact h.trans hu

theorem OnlyChannelAndSeq.keepsHost {c : Channel} {s t : State} (h : OnlyChannelAndSeq c s t) : KeepsHost s t :=
  have ⟨cfg, loaded, song, scopeEn, sampleRate, stereoMix, status⟩ := OnlyChannel.keepsHost h
  ⟨cfg, loaded, song, scopeEn, sampleRate, stereoMix, status⟩

/-! ## Handlers that write S -/

theorem onFirst_onlyChannelAndSeq {c : Channel} {f : State → State} (h : ∀ s, OnlyChannelAndSeq c s (f s)) (s : State) :
    OnlyChannelAndSeq c s (onFirst f s) := by
  unfold onFirst
  split
  · exact h s
  · exact (OnlyChannel.refl c s).andSeq

theorem setSpeed_onlyChannelAndSeq (c : Channel) (arg : Byte) (s : State) : OnlyChannelAndSeq c s (setSpeed arg s) := by
  obtain ⟨speed, tempo, spt, e⟩ := setSpeed_eq arg s
  rw [e]
  exact setSeq_onlyChannelAndSeq c s _

theorem patternLoop_onlyChannelAndSeq (c : Channel) (y : Nibble) (s : State) : OnlyChannelAndSeq c s (patternLoop y s) :=
  setSeq_onlyChannelAndSeq c s _

theorem patternDelay_onlyChannelAndSeq (c : Channel) (y : Nibble) (s : State) :
    OnlyChannelAndSeq c s (patternDelay y s) := by
  unfold patternDelay
  split
  · exact (OnlyChannel.refl c s).andSeq
  · exact setSeq_onlyChannelAndSeq c s _

/-- EXTRA's sub-effects of R406 and R410 write S, the others the channel at most. -/
theorem extraEffect_onlyChannelAndSeq (c : Channel) (x y : Nibble) (s : State) :
    OnlyChannelAndSeq c s (extraEffect c x y s) := by
  unfold extraEffect
  split
  · exact (OnlyChannel.refl c s).andSeq
  · split
    · exact (setVoice_onlyChannel c s _).andSeq
    · split
      · exact onFirst_onlyChannelAndSeq (patternLoop_onlyChannelAndSeq c y) s
      · split
        · exact onFirst_onlyChannelAndSeq (patternDelay_onlyChannelAndSeq c y) s
        · exact (OnlyChannel.refl c s).andSeq

/-! ## The instructions -/

/-- Every instruction answers, and writes at most the banks of the running channel, S and STATUS bits: a handler of either
kind on the state after the row load, which writes the running channel. -/
theorem exec_onlyChannelAndSeq (i : Instr) (s : State) : ∃ t, exec i s = .next t ∧ OnlyChannelAndSeq s.ch s t := by
  have slide (d : Int) := slidePeriod_onlyChannel s.ch d
  have volume (x y : Nibble) := volSlide_onlyChannel s.ch x y
  have voice (g : State → Voice) (u : State) := setVoice_onlyChannel s.ch u (g u)
  have synth (g : State → Synth) (u : State) := setSynth_onlyChannel s.ch u (g u)
  have flow {f : State → State} (e : exec i s = .next (f (afterLoad i s))) (hf : ∀ u, OnlyChannelAndSeq s.ch u (f u)) :
      ∃ t, exec i s = .next t ∧ OnlyChannelAndSeq s.ch s t :=
    ⟨_, e, (afterLoad_onlyChannel i s).trans_andSeq (hf _)⟩
  have banks {f : State → State} (e : exec i s = .next (f (afterLoad i s))) (hf : ∀ u, OnlyChannel s.ch u (f u)) :=
    flow e fun u => (hf u).andSeq
  have inert (e : exec i s = .next (afterLoad i s)) := banks (f := fun u => u) e (.refl s.ch)
  cases i with
  | positionJump h arg =>
    exact flow (exec_positionJump h arg s) (onFirst_onlyChannelAndSeq fun u => setSeq_onlyChannelAndSeq s.ch u _)
  | patternBreak h arg =>
    exact flow (exec_patternBreak h arg s) (onFirst_onlyChannelAndSeq fun u => setSeq_onlyChannelAndSeq s.ch u _)
  | setSpeed h arg => exact flow (exec_setSpeed h arg s) (setSpeed_onlyChannelAndSeq s.ch arg)
  | patternLoop h y =>
    exact flow (exec_patternLoop h y s) (onFirst_onlyChannelAndSeq (patternLoop_onlyChannelAndSeq s.ch y))
  | patternDelay h y =>
    exact flow (exec_patternDelay h y s) (onFirst_onlyChannelAndSeq (patternDelay_onlyChannelAndSeq s.ch y))
  | extra h x y => exact flow (exec_extra h x y s) (extraEffect_onlyChannelAndSeq s.ch x y)
  | arp h x y => exact inert (exec_arp h x y s)
  | sampleOffset h arg => exact inert (exec_sampleOffset h arg s)
  | extEvent h arg => exact inert (exec_extEvent h arg s)
  | filter h y => exact inert (exec_filter h y s)
  | slideUp h arg => exact banks (exec_slideUp h arg s) (passA_onlyChannel (slide _))
  | slideDown h arg => exact banks (exec_slideDown h arg s) (passA_onlyChannel (slide _))
  | fineSlideUp h arg => exact banks (exec_fineSlideUp h arg s) (onFirst_onlyChannel (slide _))
  | fineSlideDown h arg => exact banks (exec_fineSlideDown h arg s) (onFirst_onlyChannel (slide _))
  | volumeSlide h x y => exact banks (exec_volumeSlide h x y s) (passA_onlyChannel (volume x y))
  | tonePorta h arg => exact banks (exec_tonePorta h arg s) (passA_onlyChannel (tonePorta_onlyChannel _ _))
  | tonePortaVslide h x y =>
    exact banks (exec_tonePortaVslide h x y s) (passA_onlyChannel (tonePortaVslide_onlyChannel _ _ _))
  | vibrato h x y => exact banks (exec_vibrato h x y s) (passA_onlyChannel (vibrato_onlyChannel _ _ _))
  | vibratoVslide h x y =>
    have step (u : State) := (vibratoStep_onlyChannel s.ch u).trans (volume x y _)
    exact banks (exec_vibratoVslide h x y s) (passA_onlyChannel step)
  | setVolume h arg => exact banks (exec_setVolume h arg s) (voice _)
  | trackVolume h arg => exact banks (exec_trackVolume h arg s) (voice _)
  | arpSpeed h arg => exact banks (exec_arpSpeed h arg s) (voice _)
  | vibWave h y => exact banks (exec_vibWave h y s) (voice _)
  | newVolume h arg => exact banks (exec_newVolume h arg s) (onFirst_onlyChannel (synth _))
  | waveSpeed h arg => exact banks (exec_waveSpeed h arg s) (synth _)
  | waveMode h arg => exact banks (exec_waveMode h arg s) (synth _)

/-- Settles O48: song memory is part of the song, which no instruction writes, so every byte of it reads as before. -/
theorem everyInstructionCompletesOnItsOwnChannel : Obligations.EveryInstructionCompletesOnItsOwnChannel := by
  intro i s
  obtain ⟨t, e, h⟩ := exec_onlyChannelAndSeq i s
  have hsong : t.song = s.song := h.keepsHost.song
  exact ⟨t, e, h.keepsHost, h.out, h.ch, h.others, fun a => by rw [hsong]; exact ⟨rfl, rfl, rfl⟩,
    fun k a => by rw [hsong]⟩

end Sys2Proof.Machine
end

section
/-! PROOFS. The writable registers (O59): the phases that write mixers only, PanUpdate and MixerUpdate, and each register write as
one of them on the state with the register stored. -/

namespace Sys2Proof.Machine

/-! ## Phases over the channels -/

/-- A phase whose part on a channel is a function of that channel's banks and of what no phase writes leaves in each channel it
visits what the part leaves there. -/
theorem chan_forChannels {f : Channel → State → State} (ho : ∀ c s, OnlyChannel c s (f c s))
    (hlocal : ∀ c s t, t.chan c = s.chan c → KeepsHost s t → (f c t).chan c = (f c s).chan c) {s : State} {c : Channel}
    (hc : c ∈ s.channels) : (forChannels f s).chan c = (f c s).chan c := by
  obtain ⟨u, hchan, hkeep, -, e⟩ := foldl_at f ho s.channels (channels_nodup s) s c hc
  exact e.trans (hlocal c s u hchan hkeep)

/-- A phase that writes mixers only writes nothing of the state but the banks. -/
theorem forChannels_eq_withChans {f : Channel → State → State} (hf : ∀ c s, ∃ m, f c s = s.setMixer c m) (s : State) :
    forChannels f s = { s with chans := (forChannels f s).chans } := by
  refine forChannels_keeps (fun t => t = { s with chans := t.chans }) f (fun c t ht => ?_) s rfl
  obtain ⟨m, e⟩ := hf c t
  rw [e, ht]
  rfl

theorem mixerUpdate_writesMixer (c : Channel) (s : State) : ∃ m, mixerUpdate c s = s.setMixer c m := ⟨_, rfl⟩

/-- MixerUpdate's increment and gain, from the banks of its channel (47_mixer.md R520). -/
theorem chan_mixerUpdate (c : Channel) (s : State) : (mixerUpdate c s).chan c = { s.chan c with
    m := { s.mixer c with
      inc := incOf s.cfg s.cr.sampleRate (s.voice c).outPeriod
      gain := gainOf s.cfg s.song.variant (s.voice c) (s.synth c) } } :=
  chan_setMixer_self s c _

theorem chan_mixerUpdates {s : State} {c : Channel} (hc : c ∈ s.channels) :
    (forChannels mixerUpdate s).chan c = (mixerUpdate c s).chan c := by
  refine chan_forChannels mixerUpdate_onlyChannel (fun c s t hchan hkeep => ?_) hc
  simp only [chan_mixerUpdate, State.voice, State.synth, State.mixer, hchan, hkeep.cfg, hkeep.song, hkeep.sampleRate]

/-- One channel of PanUpdate (47_mixer.md R549). -/
def panWrite (c : Channel) (s : State) : State :=
  s.setMixer c { s.mixer c with
    panL := (panGains s.song.variant s.cr.stereoMix c).1
    panR := (panGains s.song.variant s.cr.stereoMix c).2 }

theorem panWrite_writesMixer (c : Channel) (s : State) : ∃ m, panWrite c s = s.setMixer c m := ⟨_, rfl⟩

theorem panWrite_onlyChannel (c : Channel) (s : State) : OnlyChannel c s (panWrite c s) := setMixer_onlyChannel c s _

theorem chan_panWrite (c : Channel) (s : State) : (panWrite c s).chan c = { s.chan c with
    m := { s.mixer c with
      panL := (panGains s.song.variant s.cr.stereoMix c).1
      panR := (panGains s.song.variant s.cr.stereoMix c).2 } } :=
  chan_setMixer_self s c _

theorem panUpdate_eq_withChans (s : State) : panUpdate s = { s with chans := (panUpdate s).chans } :=
  forChannels_eq_withChans panWrite_writesMixer s

theorem chan_panUpdate {s : State} {c : Channel} (hc : c ∈ s.channels) :
    (panUpdate s).chan c = (panWrite c s).chan c := by
  refine chan_forChannels panWrite_onlyChannel (fun c s t hchan hkeep => ?_) hc
  simp only [chan_panWrite, State.mixer, hchan, hkeep.song, hkeep.stereoMix]

/-- A channel of which the mixer alone was written. -/
theorem banks_of_mixer {s t : State} {c : Channel} {m : Mixer} (h : t.chan c = { s.chan c with m := m }) :
    t.mixer c = m ∧ t.voice c = s.voice c ∧ t.synth c = s.synth c ∧ t.scope c = s.scope c ∧ t.dv c = s.dv c :=
  ⟨congrArg Chan.m h, (congrArg Chan.v h).trans rfl, (congrArg Chan.y h).trans rfl, (congrArg Chan.sc h).trans rfl,
    (congrArg Chan.dv h).trans rfl⟩

/-- A state that differs in S, CR and the banks at most is what a register write may leave, if the song's channels are the only
ones written. -/
theorem onlyPlayback_of_withChans {s t : State} {q : Seq} {k : Ctrl} (e : t = { s with seq := q, cr := k, chans := t.chans })
    (ho : ∀ c, c ∉ s.channels → t.chan c = s.chan c) : OnlyPlayback s t :=
  ⟨by rw [e], by rw [e], by rw [e], by rw [e], by rw [e], ho⟩

/-! ## WRITE SAMPLE_RATE -/

theorem writeSampleRate_of_illegal {v : BitVec 32} (h : v.toNat < 8000 ∨ 192000 < v.toNat) (s : State) :
    writeSampleRate v s = s := if_pos h

/-- The state in which a new rate's MixerUpdate runs: the rate stored and the tick length recomputed (60_exceptions.md R597). -/
def withRate (v : BitVec 32) (s : State) : State := recomputeSpt { s with cr := { s.cr with sampleRate := v } }

theorem writeSampleRate_of_legal {v : BitVec 32} (hlo : 8000 ≤ v.toNat) (hhi : v.toNat ≤ 192000) (s : State) :
    writeSampleRate v s = forChannels mixerUpdate (withRate v s) := if_neg (by omega)

theorem mixerUpdates_withRate (v : BitVec 32) (s : State) :
    let t := forChannels mixerUpdate (withRate v s)
    t = { s with
      seq := { s.seq with spt := samplesPerTick v s.seq.tempo }, cr := { s.cr with sampleRate := v }, chans := t.chans } :=
  forChannels_eq_withChans mixerUpdate_writesMixer _

/-- The banks after a write of a legal rate. -/
theorem chan_mixerUpdates_withRate (v : BitVec 32) {s : State} {c : Channel} (hc : c ∈ s.channels) :
    (forChannels mixerUpdate (withRate v s)).chan c = { s.chan c with
      m := { s.mixer c with
        inc := incOf s.cfg v (s.voice c).outPeriod, gain := gainOf s.cfg s.song.variant (s.voice c) (s.synth c) } } :=
  (chan_mixerUpdates (s := withRate v s) hc).trans (chan_mixerUpdate c (withRate v s))

/-! ## WRITE STEREO_MIX -/

/-- The state in which a new mix's PanUpdate runs (60_exceptions.md R597). -/
def withMix (v : BitVec 32) (s : State) : State :=
  { s with cr := { s.cr with stereoMix := BitVec.ofNat 9 (min v.toNat 256) } }

/-- The 9-bit register holds the saturated mix. -/
theorem stereoFactor_saturated (n : Nat) :
    stereoFactor (BitVec.ofNat 9 (min n 256)) = ((min n 256 : Nat) : Rat) / 256 := by
  rw [stereoFactor, BitVec.toNat_ofNat, Nat.mod_eq_of_lt (by omega)]

/-- The channels on the left: L, R, R, L of AON4 and L, L, R, R, R, R, L, L of AON8 (47_mixer.md R548). -/
def OnLeft (var : Variant) (c : Channel) : Prop :=
  match var with
  | .aon4 => c = 0 ∨ c = 3
  | .aon8 => c = 0 ∨ c = 1 ∨ c = 6 ∨ c = 7

theorem sideIsLeft_of_onLeft {var : Variant} {c : Channel} (h : OnLeft var c) : sideIsLeft var c = some true := by
  cases var <;> simp only [OnLeft] at h <;> revert c <;> decide

theorem sideIsLeft_of_not_onLeft {var : Variant} {c : Channel} (hc : c ∈ var.channels) (h : ¬ OnLeft var c) :
    sideIsLeft var c = some false := by
  cases var <;> simp only [OnLeft] at h <;> revert c <;> decide

theorem panGains_of_onLeft {var : Variant} {c : Channel} (k : BitVec 9) (h : OnLeft var c) :
    panGains var k c = (1 - stereoFactor k / 2, stereoFactor k / 2) := by
  rw [panGains, sideIsLeft_of_onLeft h]

theorem panGains_of_not_onLeft {var : Variant} {c : Channel} (k : BitVec 9) (hc : c ∈ var.channels) (h : ¬ OnLeft var c) :
    panGains var k c = (stereoFactor k / 2, 1 - stereoFactor k / 2) := by
  rw [panGains, sideIsLeft_of_not_onLeft hc h]

/-- The banks after a write of the mix. -/
theorem chan_writeStereoMix (v : BitVec 32) {s : State} {c : Channel} (hc : c ∈ s.channels) :
    (writeStereoMix v s).chan c = { s.chan c with
      m := { s.mixer c with
        panL := (panGains s.song.variant (BitVec.ofNat 9 (min v.toNat 256)) c).1
        panR := (panGains s.song.variant (BitVec.ofNat 9 (min v.toNat 256)) c).2 } } :=
  (chan_panUpdate (s := withMix v s) hc).trans (chan_panWrite c (withMix v s))

/-! ## WRITE -/

theorem writeRegister_other {offset : Nat} (hctrl : offset ≠ 0x04) (hrate : offset ≠ 0x0C) (hmix : offset ≠ 0x10)
    (v : BitVec 32) (s : State) : writeRegister offset v s = s := by
  rw [writeRegister, if_neg hctrl, if_neg hrate, if_neg hmix]

theorem hostOp_write {s : State} (h : s.loaded = true) (offset : Nat) (v : BitVec 32) :
    hostOp (.write offset v) s = .next (writeRegister offset v s, .done) := if_pos h

theorem hostOp_setSampleRate {s : State} (h : s.loaded = true) (v : BitVec 32) :
    hostOp (.setSampleRate v) s = .next (writeSampleRate v s, .done) := if_pos h

/-- Settles O59: each write stores its register and runs one phase over the song's channels, whose part on a channel is a
function of its banks and of the new register. -/
theorem registerWritesTakeEffectAtOnce : Obligations.RegisterWritesTakeEffectAtOnce := by
  intro v s
  refine ⟨fun h => writeSampleRate_of_illegal h s, ?rate, ?mix, rfl,
    fun offset hctrl hrate hmix => writeRegister_other hctrl hrate hmix v s,
    fun h => ⟨fun offset => hostOp_write h offset v, hostOp_setSampleRate h v⟩⟩
  case rate =>
    intro hlo hhi t
    have ht : t = forChannels mixerUpdate (withRate v s) := writeSampleRate_of_legal hlo hhi s
    have e : t = { s with
        seq := { s.seq with spt := samplesPerTick v s.seq.tempo }, cr := { s.cr with sampleRate := v }
        chans := t.chans } := by rw [ht]; exact mixerUpdates_withRate v s
    have hother (c : Channel) (hc : c ∉ s.channels) : t.chan c = s.chan c := by
      rw [ht]; exact foldl_other mixerUpdate mixerUpdate_onlyChannel s.channels (withRate v s) c hc
    have hbanks (c : Channel) (hc : c ∈ s.channels) := banks_of_mixer (ht ▸ chan_mixerUpdates_withRate v hc)
    refine ⟨by rw [e], by rw [e]; rfl, onlyPlayback_of_withChans e hother, fun c hc => ?_, fun hg c hc => ?_⟩
    · obtain ⟨hm, hv, hy, hsc, hdv⟩ := hbanks c hc
      exact ⟨hv, hy, hsc, hdv, by rw [hm]⟩
    · rw [(hbanks c hc).1, hg c hc]
  case mix =>
    intro t m
    have e : t = { s with cr := { s.cr with stereoMix := BitVec.ofNat 9 (min v.toNat 256) }, chans := t.chans } :=
      panUpdate_eq_withChans (withMix v s)
    have hother (c : Channel) (hc : c ∉ s.channels) : t.chan c = s.chan c :=
      foldl_other panWrite panWrite_onlyChannel s.channels (withMix v s) c hc
    have hm : stereoFactor (BitVec.ofNat 9 (min v.toNat 256)) = m := stereoFactor_saturated v.toNat
    refine ⟨by rw [e], by rw [e], onlyPlayback_of_withChans e hother, fun c hc => ?_⟩
    obtain ⟨hmixer, hv, hy, hsc, hdv⟩ := banks_of_mixer (chan_writeStereoMix v hc)
    refine ⟨hv, hy, hsc, hdv, fun (hleft : OnLeft s.song.variant c) => ?_, fun (hright : ¬ OnLeft s.song.variant c) => ?_⟩
    · exact hmixer.trans (by rw [panGains_of_onLeft _ hleft, hm])
    · exact hmixer.trans (by rw [panGains_of_not_onLeft _ hc hright, hm])

end Sys2Proof.Machine
end

section
/-! PROOFS. START and CREATE (O53): PanUpdate on a state whose S and banks stand at their reset values. -/

namespace Sys2Proof.Machine

/-! ## The load preconditions -/

theorem clampRestart_eq (g : Song) :
    g.clampRestart = { g with restart := if g.restart.toNat < g.numPositions then g.restart else 0 } := by
  unfold Song.clampRestart
  split <;> rfl

/-- The conditions of R630 on the positions, the patterns and the instruments' waveforms. -/
theorem song_wf_conditions {g : Song} (h : g.wf = true) :
    1 ≤ g.numPositions ∧ g.numPositions ≤ 256 ∧ 1 ≤ g.numPatterns ∧
    (∀ p < g.numPositions, (g.pos.read p).toNat < g.numPatterns) ∧ ∀ i ∈ g.instruments, i.wave.toNat < g.numWaves := by
  simp only [Song.wf, Bool.and_eq_true, decide_eq_true_eq, List.all_eq_true, List.mem_range, Instrument.wf] at h
  tauto

/-- A song that breaks one of these conditions is refused, whatever its RESTART. -/
theorem clampRestart_wf_of_broken {g : Song}
    (h : g.numPositions = 0 ∨ 256 < g.numPositions ∨ g.numPatterns = 0 ∨
      (∃ p < g.numPositions, g.numPatterns ≤ (g.pos.read p).toNat) ∨ ∃ i ∈ g.instruments, g.numWaves ≤ i.wave.toNat) :
    g.clampRestart.wf = false := by
  refine Bool.eq_false_iff.2 fun hwf => ?_
  rw [clampRestart_eq] at hwf
  obtain ⟨hpos, hmax, hpat, hlist, hwave⟩ := song_wf_conditions hwf
  rcases h with h | h | h | ⟨p, hp, h⟩ | ⟨i, hi, h⟩
  · exact absurd hpos (by simp [h])
  · exact absurd hmax (Nat.not_le.2 h)
  · exact absurd hpat (by simp [h])
  · exact absurd (hlist p hp) (Nat.not_lt.2 h)
  · exact absurd (hwave i hi) (Nat.not_lt.2 h)

/-! ## START -/

/-- The state in which START's PanUpdate runs: S and every bank at reset, STATUS clear (70_reset_and_hazards.md R620). -/
def restarted (s : State) : State :=
  { s with
    seq := Seq.reset s.cr.sampleRate
    chans := Vector.replicate 8 (Chan.reset s.cfg.scopeLen 0 0)
    cr := { s.cr with status := 0 }
    ch := 0 }

/-- The tick length of the reset tempo is SAMPLE_RATE div 50 (10_state.md R32). -/
theorem samplesPerTick_reset (rate : BitVec 32) : samplesPerTick rate 125 = BitVec.ofNat 32 (rate.toNat / 50) := by
  rw [samplesPerTick, show ticksPerSecond 125 = 50 by decide]

/-- START's RecomputeSPT finds the tick length that `Seq.reset` holds already. -/
theorem startBlock_eq (s : State) : startBlock s = panUpdate (restarted s) :=
  congrArg (fun spt => panUpdate { restarted s with seq := { Seq.reset s.cr.sampleRate with spt := spt } })
    (samplesPerTick_reset s.cr.sampleRate)

theorem startBlock_eq_withChans (s : State) :
    startBlock s = { s with
      seq := Seq.reset s.cr.sampleRate, cr := { s.cr with status := 0 }, ch := 0, chans := (startBlock s).chans } := by
  rw [startBlock_eq]
  exact panUpdate_eq_withChans (restarted s)

/-- START's banks on the song's channels: the reset values with the pan of the stereo mix. -/
theorem chan_startBlock {s : State} {c : Channel} (hc : c ∈ s.channels) :
    (startBlock s).chan c = Chan.reset s.cfg.scopeLen (panGains s.song.variant s.cr.stereoMix c).1
      (panGains s.song.variant s.cr.stereoMix c).2 := by
  have hreset : (restarted s).chan c = Chan.reset s.cfg.scopeLen 0 0 := Vector.getElem_replicate c.isLt
  rw [startBlock_eq, chan_panUpdate (s := restarted s) hc, chan_panWrite, State.mixer, hreset]
  rfl

/-! ## The reset values are legal -/

/-- S at reset, with the tick length of the reset tempo at any rate. -/
theorem seqReset_seqInv {g : Song} (h : 1 ≤ g.numPositions) (rate : BitVec 32) : SeqInv g rate (Seq.reset rate) where
  pos := h
  curPos := h
  speed := by simp [Seq.reset]
  tempo := by simp [Seq.reset]
  spt := (samplesPerTick_reset rate).symm
  acc := by simp [Seq.reset]
  delay := by simp [Seq.reset]
  loopCnt := .inl (Nat.zero_le _)

theorem voiceReset_voiceInv (g : Song) : VoiceInv g Voice.reset where
  inst := Nat.zero_le _
  period := .inl rfl
  outPeriod := .inl rfl
  portaTarget := .inl rfl
  arpOut := .inl rfl
  volume := by decide
  trackVol := by decide
  vibAmp := by decide
  arpSpeed := by decide
  arpEnd := by decide
  arpPos := by decide
  arpCursor := nofun

theorem mixerReset_mixerInv (var : Variant) (k : BitVec 9) (c : Channel) :
    MixerInv var k c (Mixer.reset (panGains var k c).1 (panGains var k c).2) where
  phase := le_refl _
  inc := le_refl _
  gain := ⟨le_refl _, by norm_num [Mixer.reset]⟩
  pan := rfl
  loopLen := nofun

theorem chanInv_of_reset {s : State} {c : Channel} (hlen : 1 ≤ s.cfg.scopeLen)
    (h : s.chan c = Chan.reset s.cfg.scopeLen (panGains s.song.variant s.cr.stereoMix c).1
      (panGains s.song.variant s.cr.stereoMix c).2) : ChanInv s c := by
  have hv : s.voice c = Voice.reset := congrArg Chan.v h
  have hy : s.synth c = Synth.reset := congrArg Chan.y h
  have hm : s.mixer c = Mixer.reset _ _ := congrArg Chan.m h
  have hsc : s.scope c = Scope.reset _ := congrArg Chan.sc h
  constructor
  case voice => rw [hv]; exact voiceReset_voiceInv _
  case mixer => rw [hm]; exact mixerReset_mixerInv _ _ c
  case synthLoop => rw [hv]; nofun
  case wlen => rw [hy]; exact Nat.zero_le _
  case wave => rw [hy, hv]; exact .inr ⟨rfl, rfl⟩
  case ring => rw [hsc]; exact List.length_replicate
  case wp => rw [hsc]; exact hlen

/-- A silent voice has gain 0. -/
theorem gainOf_voiceReset (cfg : Config) (var : Variant) (y : Synth) : gainOf cfg var Voice.reset y = 0 := by
  simp [gainOf, Voice.reset]

theorem startBlock_gainsFollow (s : State) : GainsFollow (startBlock s) := by
  intro c hc
  rw [startBlock_eq_withChans s] at hc
  have h := chan_startBlock hc
  have hv : (startBlock s).voice c = Voice.reset := congrArg Chan.v h
  have hm : (startBlock s).mixer c = Mixer.reset _ _ := congrArg Chan.m h
  rw [hm, hv, gainOf_voiceReset]
  rfl

/-- START on a held song under legal configuration registers leaves a legal state. -/
theorem startBlock_inv {s : State} (hcfg : s.cfg.wf = true) (hsong : s.song.wf = true) (hheld : s.loaded = true)
    (hrate : 8000 ≤ s.cr.sampleRate.toNat ∧ s.cr.sampleRate.toNat ≤ 192000) (hmix : s.cr.stereoMix.toNat ≤ 256) :
    Inv (startBlock s) := by
  have hchans (c : Channel) (hc : c ∈ s.channels) := chan_startBlock hc
  have e := startBlock_eq_withChans s
  generalize startBlock s = t at e hchans
  have hseq : SeqInv s.song s.cr.sampleRate (Seq.reset s.cr.sampleRate) := seqReset_seqInv (song_wf_conditions hsong).1 _
  have hlen : 1 ≤ s.cfg.scopeLen := (config_wf_bounds hcfg).1
  constructor
  case cfg => rw [e]; exact hcfg
  case song => rw [e]; exact hsong
  case held => rw [e]; exact hheld
  case rate => rw [e]; exact hrate
  case stereo => rw [e]; exact hmix
  case status => rw [e]; exact Nat.zero_lt_succ 15
  case seq => rw [e]; exact hseq
  case chans =>
    rw [e]
    exact fun c hc => chanInv_of_reset hlen (hchans c hc)

/-! ## CREATE -/

/-- The state in which CREATE's START runs: the song held, with the configuration registers at reset. -/
def holding (g : Song) (s : State) : State := { s with loaded := true, song := g.clampRestart, cr := Ctrl.reset }

theorem hostOp_create_of_wf {g : Song} (h : g.clampRestart.wf = true) (s : State) :
    hostOp (.create (.song g)) s = .next (startBlock (holding g s), .done) :=
  congrArg Host.Outcome.next (if_pos h)

/-- A failed CREATE: no song is held, and the failure is reported (60_exceptions.md R582). -/
theorem hostOp_create_of_not_wf {g : Song} (h : g.clampRestart.wf = false) (s : State) :
    hostOp (.create (.song g)) s = .next ({ s with loaded := false, song := Song.blank }, .failure .bounds) :=
  congrArg Host.Outcome.next (if_neg (Bool.eq_false_iff.1 h))

theorem hostOp_create_failed (e : LoadFailure) (s : State) :
    hostOp (.create (.failed e)) s = .next ({ s with loaded := false, song := Song.blank }, .failure e) := rfl

/-- Settles O53: a song that is held is started, and START leaves the reset values; a song that is not held leaves the state of
a failed CREATE. -/
theorem createHoldsTheSongOrRejectsIt : Obligations.CreateHoldsTheSongOrRejectsIt := by
  intro g s
  refine ⟨fun h => ?held, fun h => ⟨_, hostOp_create_of_not_wf h s, rfl⟩, clampRestart_wf_of_broken⟩
  have e := startBlock_eq_withChans (holding g s)
  have hchan (c : Channel) (hc : c ∈ (holding g s).channels) := chan_startBlock hc
  have hvar : (holding g s).song.variant = g.variant := by simp only [holding, clampRestart_eq]
  have hinv (hcfg : s.cfg.wf = true) : Inv (startBlock (holding g s)) :=
    startBlock_inv (s := holding g s) hcfg h rfl (by simp [holding, Ctrl.reset]) (by simp [holding, Ctrl.reset])
  have hgains := startBlock_gainsFollow (holding g s)
  have hop := hostOp_create_of_wf h s
  generalize startBlock (holding g s) = t at e hchan hinv hgains hop
  rw [hvar] at hchan
  refine ⟨t, hop, by rw [e]; rfl, ?song, by rw [e]; rfl, by rw [e]; rfl, fun c hc => hchan c ?mem, by rw [e]; rfl,
    by rw [e]; rfl, hgains, hinv⟩
  case song => rw [e]; exact clampRestart_eq g
  case mem => rw [e] at hc; exact hc

end Sys2Proof.Machine
end

section
/-! PROOFS. The host operations and time (O56, O58): DECODE runs its frames one step at a time, and no other operation runs one. -/

namespace Sys2Proof.Machine

/-! ## DECODE -/

/-- n frames of a held song, each appended by its own step. -/
theorem decodeFrames_appends (n : Nat) {s : State} (h : s.loaded = true) :
    ∃ t fs, decodeFrames n s = .next t ∧ t.out = s.out ++ fs ∧ fs.length = n ∧ KeepsHost s t := by
  induction n generalizing s with
  | zero => exact ⟨s, [], rfl, (List.append_nil _).symm, rfl, .refl s⟩
  | succ n ih =>
    obtain ⟨u, f, hstep, hout, hkeep⟩ := everyStepEmitsOneFrame s h
    obtain ⟨t, fs, hrun, hout', hlen, hkeep'⟩ := ih (hkeep.loaded.trans h)
    refine ⟨t, f :: fs, ?_, by simp [hout', hout], by simp [hlen], hkeep.trans hkeep'⟩
    have hfirst : stepFrame s = .next u := hstep
    rw [decodeFrames, hfirst, andThen_next, hrun]

theorem hostOp_decode {n : Nat} {s t : State} (h : s.loaded = true) (hrun : decodeFrames n s = .next t) :
    hostOp (.decode n) s = .next (t, .frames n (finished t)) := by
  simp only [hostOp, h, if_true, hrun]

/-! ## What a register write keeps -/

/-- t stands at the same point of time as s: of S only the tick length differs, and no voice, synth bank, scope or phase does,
nor the output stream (60_exceptions.md R605, R606). -/
structure TimeStands (s t : State) : Prop where
  out : t.out = s.out
  seq : t.seq = { s.seq with spt := t.seq.spt }
  song : t.song = s.song
  cfg : t.cfg = s.cfg
  loaded : t.loaded = s.loaded
  banks : ∀ c, t.voice c = s.voice c ∧ t.synth c = s.synth c ∧ t.scope c = s.scope c ∧
    (t.mixer c).phase = (s.mixer c).phase

theorem TimeStands.refl (s : State) : TimeStands s s := ⟨rfl, rfl, rfl, rfl, rfl, fun _ => ⟨rfl, rfl, rfl, rfl⟩⟩

theorem TimeStands.setMixer {s t : State} (h : TimeStands s t) (c : Channel) (m : Mixer)
    (hm : m.phase = (t.mixer c).phase) : TimeStands s (t.setMixer c m) where
  out := h.out
  seq := h.seq
  song := h.song
  cfg := h.cfg
  loaded := h.loaded
  banks := by
    intro d
    have hphase : ((t.setMixer c m).mixer d).phase = (t.mixer d).phase := by
      rw [mixer_setMixer_if]
      split
      case isTrue e => rw [hm, e]
      case isFalse => rfl
    rw [voice_setMixer, synth_setMixer, scope_setMixer, hphase]
    exact h.banks d

theorem writeSampleRate_timeStands (v : BitVec 32) (s : State) : TimeStands s (writeSampleRate v s) := by
  unfold writeSampleRate
  split
  · exact .refl s
  · exact forChannels_keeps (TimeStands s) mixerUpdate (fun c _ h => h.setMixer c _ rfl) (withRate v s)
      { TimeStands.refl s with seq := rfl }

theorem writeStereoMix_timeStands (v : BitVec 32) (s : State) : TimeStands s (writeStereoMix v s) :=
  forChannels_keeps (TimeStands s) panWrite (fun c _ h => h.setMixer c _ rfl) (withMix v s) { TimeStands.refl s with }

theorem writeRegister_timeStands (offset : Nat) (v : BitVec 32) (s : State) : TimeStands s (writeRegister offset v s) := by
  unfold writeRegister
  split
  · exact { TimeStands.refl s with }
  · split
    · exact writeSampleRate_timeStands v s
    · split
      · exact writeStereoMix_timeStands v s
      · exact .refl s

/-! ## Refusal -/

/-- Before a successful CREATE every other operation is refused with no effect (60_exceptions.md R596). -/
theorem hostOp_of_not_loaded {s : State} (h : s.loaded = false) {op : HostOp} (hop : ∀ r, op ≠ .create r) :
    hostOp op s = .next (s, .refused) := by
  have hn : ¬ s.loaded = true := by simp [h]
  cases op with
  | create r => exact absurd rfl (hop r)
  | setSampleRate | start | decode | read | write | cell | scope | metadata => exact if_neg hn

theorem LoadFailure.code_range (e : LoadFailure) : 1 ≤ e.code ∧ e.code ≤ 6 := by cases e <;> decide

/-- Settles O58: the refusals of R596, and the failed CREATE of R582. -/
theorem nothingRunsWithoutASong : Obligations.NothingRunsWithoutASong :=
  ⟨fun _ _ h hop => ⟨hostOp_of_not_loaded h hop, if_neg (Bool.eq_false_iff.1 h)⟩,
    fun e s => ⟨_, hostOp_create_failed e s, rfl, e.code_range⟩⟩

/-! ## Time -/

theorem startBlock_out (s : State) : (startBlock s).out = s.out := by rw [startBlock_eq_withChans]

theorem createSong_out (r : LoadResult) (s : State) : (createSong r s).1.out = s.out := by
  cases r with
  | failed => rfl
  | song g =>
    simp only [createSong]
    split
    · exact startBlock_out _
    · rfl

/-- An operation that answers t while a song is held and is refused otherwise answers some state; what holds of s and of t
holds of it. -/
theorem answers_of_held_or_refused {P : State → Prop} {s t : State} (r : HostReply) (hs : P s) (ht : P t) :
    ∃ u q, (if s.loaded then .next (t, r) else query s .refused) = .next (u, q) ∧ P u := by
  split
  · exact ⟨t, r, rfl, ht⟩
  · exact ⟨s, .refused, rfl, hs⟩

/-- Settles O56: DECODE's frames are its steps'; of the other operations CREATE and START keep the stream, the register writes
let time stand, and the rest answer from the state they keep. -/
theorem decodeAloneProducesFrames : Obligations.DecodeAloneProducesFrames := by
  constructor
  · intro n s h
    obtain ⟨t, fs, hrun, hout, hlen, hkeep⟩ := decodeFrames_appends n h
    exact ⟨t, fs, hostOp_decode h hrun, hout, hlen, hkeep⟩
  · intro op s hop
    have writes {t : State} (h : TimeStands s t) := answers_of_held_or_refused .done (TimeStands.refl s) h
    have queries (r : HostReply) := answers_of_held_or_refused (P := fun t => t.out = s.out ∧ t = s) r ⟨rfl, rfl⟩ ⟨rfl, rfl⟩
    cases op with
    | decode n => exact absurd rfl (hop n)
    | create r => exact ⟨_, _, rfl, createSong_out r s, trivial⟩
    | start k =>
      exact answers_of_held_or_refused (P := fun t => t.out = s.out ∧ True) .done ⟨rfl, trivial⟩ ⟨startBlock_out s, trivial⟩
    | setSampleRate v =>
      obtain ⟨t, r, e, h⟩ := writes (writeSampleRate_timeStands v s)
      exact ⟨t, r, e, h.out, h.seq, h.song, h.cfg, h.loaded, h.banks⟩
    | write offset v =>
      obtain ⟨t, r, e, h⟩ := writes (writeRegister_timeStands offset v s)
      exact ⟨t, r, e, h.out, h.seq, h.song, h.cfg, h.loaded, h.banks⟩
    | read offset => exact queries (.value (readRegister offset s))
    | cell pat row ch => exact queries (readCell pat row ch s)
    | scope ch => exact queries (readScope ch s)
    | metadata => exact queries (.counts s.song.numPatterns s.song.numInstr)

end Sys2Proof.Machine
end

section
/-! PROOFS. START (O54), the split of a DECODE (O57) and the state after reset (O52). -/

namespace Sys2Proof.Machine

/-! ## START -/

theorem hostOp_start {s : State} (h : s.loaded = true) (subsong : Nat) :
    hostOp (.start subsong) s = .next (startBlock s, .done) := if_pos h

/-- At the reset values S.acc is 0, S.tick + 1 is S.speed and no delay is armed: the row tick of position 0 row 0 is due. -/
theorem seqReset_firstRowDue (rate : BitVec 32) :
    tickDue (Seq.reset rate) = true ∧ rowTickDue (Seq.reset rate) = true ∧ delayArmed (Seq.reset rate) = false ∧
      (Seq.reset rate).pos = 0 ∧ (Seq.reset rate).row = 0 := ⟨rfl, rfl, rfl, rfl, rfl⟩

/-- Settles O54: START puts S, STATUS and the banks at their reset values and keeps the rest of what the host set. -/
theorem startResetsThePlayback : Obligations.StartResetsThePlayback := by
  intro s
  have e := startBlock_eq_withChans s
  have hchan (c : Channel) (hc : c ∈ s.channels) := chan_startBlock hc
  have hop (h : s.loaded = true) (subsong : Nat) := hostOp_start h subsong
  generalize startBlock s = t at e hchan hop
  have hseq : t.seq = Seq.reset s.cr.sampleRate := by rw [e]
  have hdue := seqReset_firstRowDue s.cr.sampleRate
  rw [← hseq] at hdue
  obtain ⟨htick, hrow, hdelay, hpos0, hrow0⟩ := hdue
  exact ⟨hseq, hchan, by rw [e], by rw [e], by rw [e], by rw [e], by rw [e], htick, hrow, hdelay, hpos0, hrow0, hop⟩

/-! ## DECODE in parts -/

/-- a + b frames are a frames and then b frames. -/
theorem decodeFrames_add (a b : Nat) (s : State) :
    decodeFrames (a + b) s = andThen (decodeFrames a s) (decodeFrames b) := by
  induction a generalizing s with
  | zero => rw [Nat.zero_add, decodeFrames, andThen_next]
  | succ a ih =>
    have hsplit : decodeFrames (a + b) = fun t => andThen (decodeFrames a t) (decodeFrames b) := funext ih
    rw [Nat.succ_add, decodeFrames, decodeFrames, andThen_assoc, hsplit]

/-- The state a DECODE of a held song answers is that of its frames, and the song is still held. -/
theorem decodeFrames_of_hostOp_decode {n : Nat} {s t : State} {p : HostReply} (h : s.loaded = true)
    (hop : hostOp (.decode n) s = .next (t, p)) : decodeFrames n s = .next t ∧ t.loaded = true := by
  obtain ⟨u, -, hrun, -, -, hkeep⟩ := decodeFrames_appends n h
  rw [hostOp_decode h hrun] at hop
  obtain ⟨rfl, -⟩ := Prod.mk.inj (Host.Outcome.next.inj hop)
  exact ⟨hrun, hkeep.loaded.trans h⟩

/-- Settles O57: the frames of the two DECODEs, in order, are those of the one. -/
theorem decodeMayBeSplit : Obligations.DecodeMayBeSplit := by
  intro a b s t u p q ha hb h
  obtain ⟨hrun, ht⟩ := decodeFrames_of_hostOp_decode h ha
  obtain ⟨hrun', -⟩ := decodeFrames_of_hostOp_decode ht hb
  have hsum : decodeFrames (a + b) s = .next u := by rw [decodeFrames_add, hrun, andThen_next, hrun']
  exact ⟨_, hostOp_decode h hsum⟩

/-! ## The state after reset -/

/-- Whatever the free entries are, those of PERIOD_TABLE are at least 1 (45_arpeggio.md R431). -/
theorem openPeriodTable_pos {row : Vector (BitVec 16) 60} (hrow : row ∈ openPeriodTable.toList) {p : BitVec 16}
    (hp : p ∈ row.toList) : 1 ≤ p.toNat := by
  rw [Vector.mem_toList_iff] at hrow hp
  obtain ⟨row', -, rfl⟩ := Vector.mem_map.1 hrow
  obtain ⟨p', -, rfl⟩ := Vector.mem_map.1 hp
  split
  case isTrue => exact le_refl 1
  case isFalse hne => exact Nat.pos_of_ne_zero fun h => hne (BitVec.eq_of_toNat_eq h)

theorem config_default_wf : Config.default.wf = true := by
  have hcodes : Config.default.codes.wf = true := by decide
  have htable : Config.default.periodTable.toList.all (fun row => row.toList.all fun p => decide (1 ≤ p.toNat)) = true := by
    simp only [List.all_eq_true, decide_eq_true_eq]
    exact fun _ hrow _ hp => openPeriodTable_pos hrow hp
  rw [Config.wf, hcodes, htable]
  rfl

/-- At STEREO_MIX 0 the pan L, R, R, L of AON4 is hard left and hard right (47_mixer.md R548, R549). -/
theorem panGains_aon4_unmixed {c : Channel} (hc : c ∈ Variant.aon4.channels) :
    panGains .aon4 0 c = (if c = 0 ∨ c = 3 then 1 else 0, if c = 1 ∨ c = 2 then 1 else 0) := by
  have hfactor : stereoFactor 0#9 = 0 := by simp [stereoFactor]
  simp only [Variant.channels, List.mem_cons, List.not_mem_nil, or_false] at hc
  rcases hc with rfl | rfl | rfl | rfl <;> simp [panGains, sideIsLeft, hfactor]

/-- The banks of State.reset on its song's channels are those START leaves, with the pan of the stereo mix. -/
theorem reset_chan_of_mem {c : Channel} (hc : c ∈ State.reset.channels) :
    State.reset.chan c = Chan.reset State.reset.cfg.scopeLen
      (panGains State.reset.song.variant State.reset.cr.stereoMix c).1
      (panGains State.reset.song.variant State.reset.cr.stereoMix c).2 := by
  have hpan : panGains State.reset.song.variant State.reset.cr.stereoMix c = _ := panGains_aon4_unmixed hc
  rw [hpan]
  exact reset_chan c

theorem reset_inv : Inv State.reset where
  cfg := config_default_wf
  song := blank_song_wf
  held := rfl
  rate := by decide
  stereo := by decide
  status := by decide
  seq := seqReset_seqInv (le_refl 1) 48000
  chans _ hc := chanInv_of_reset (s := State.reset) (by decide) (reset_chan_of_mem hc)

/-- At reset every gain is 0, the gain of a silent voice. -/
theorem reset_gainsFollow : GainsFollow State.reset := by
  intro c hc
  have h := reset_chan_of_mem hc
  have hv : State.reset.voice c = Voice.reset := congrArg Chan.v h
  have hm : State.reset.mixer c = Mixer.reset _ _ := congrArg Chan.m h
  rw [hm, hv, gainOf_voiceReset]
  rfl

/-- Settles O52: the blank song and the default parameters are legal, and so is every register at its reset value. -/
theorem resetStateIsLegal : Obligations.ResetStateIsLegal := ⟨reset_inv, reset_gainsFollow⟩

end Sys2Proof.Machine
end
